-- ==== Sys2Proof/Word.lean ====
section
/-! DEFINITION. The words the block computes with, and the types that an instruction's fields are
made of (spec/10_state.md R21, spec/30_encoding.md R71, R72, R77). -/

namespace Sys2Proof

/-- A word, "an unsigned 16-bit integer 0–0xFFFF" (R21). -/
abbrev Word := BitVec 16

/-- A byte of the memory image (R50). -/
abbrev Byte := BitVec 8

/-- A Z-character: "a 5-bit value 0–31 taken from a packed text word" (spec/00_scope.md R9). -/
abbrev Code := BitVec 5

/-- A string of output characters (spec/41_text.md R141), one entry a character. -/
abbrev Text := List Char

/-- The operand type codes 0, 1, 2 and 3 of R72, in that order. -/
inductive OpType where
  | largeConst | smallConst | varRef | omitted
deriving DecidableEq, Repr

/-- An operand: its type and its raw value (R77). The value of `var` is a variable number.
`omitted` is the spec's fourth type; no decoded instruction holds one (R101, R105). -/
inductive Operand where
  | large (w : Word)
  | small (b : Byte)
  | var (v : Byte)
  | omitted
deriving DecidableEq, Repr

/-- The operand-count class of an opcode: 0OP, 1OP, 2OP, VAR or EXT (R71, R78). -/
inductive OpClass where
  | op0 | op1 | op2 | vari | ext
deriving DecidableEq, Repr

/-- The two byte layouts of a 2OP instruction: the long form (R73) and the variable form with
bit 5 of the opcode byte clear (R75, R78). -/
inductive Form2OP where
  | long | vari
deriving DecidableEq, Repr

/-- The three alphabets of the packed text (spec/41_text.md R133). -/
inductive Alphabet where
  | a0 | a1 | a2
deriving DecidableEq, Repr

end Sys2Proof
end

