-- ==== Sys2Proof/Syntax.lean ====
section
/-! DEFINITION. The instructions: one constructor for each mnemonic of spec/opcode_table.json (H of
spec/30_encoding.md R83, the extended form of R76, the unimplemented keys of R84). The table's rows
of one mnemonic are its byte forms, and stand here as the constructor's arguments: the layout of a
2OP instruction (`form`) and the types of its operands (in `Operand`). The suffixes are no part of
the decoded instruction: the handler reads them from the image (spec/90_conflicts.md C3). -/

namespace Sys2Proof

/-- A decoded instruction (R101). -/
inductive Instr where
  /-- `jin`, 2OP:6 (R176). -/
  | jin (form : Form2OP) (ops : List Operand)
  /-- `test_attr`, 2OP:10 (R177). -/
  | testAttr (form : Form2OP) (ops : List Operand)
  /-- `set_attr`, 2OP:11 (R178). -/
  | setAttr (form : Form2OP) (ops : List Operand)
  /-- `clear_attr`, 2OP:12 (R179). -/
  | clearAttr (form : Form2OP) (ops : List Operand)
  /-- `store`, 2OP:13 (R231). -/
  | store (form : Form2OP) (ops : List Operand)
  /-- `insert_obj`, 2OP:14 (R180). -/
  | insertObj (form : Form2OP) (ops : List Operand)
  /-- `add`, 2OP:20 (R234). -/
  | add (form : Form2OP) (ops : List Operand)
  /-- `sub`, 2OP:21 (R235). -/
  | sub (form : Form2OP) (ops : List Operand)
  /-- `div`, 2OP:23 (R236). -/
  | div (form : Form2OP) (ops : List Operand)
  /-- `mod`, 2OP:24 (R237). -/
  | mod (form : Form2OP) (ops : List Operand)
  /-- `get_sibling`, 1OP:1 (R173). -/
  | getSibling (op : Operand)
  /-- `get_child`, 1OP:2 (R174). -/
  | getChild (op : Operand)
  /-- `get_parent`, 1OP:3 (R175). -/
  | getParent (op : Operand)
  /-- `inc`, 1OP:5 (R232). -/
  | inc (op : Operand)
  /-- `dec`, 1OP:6 (R233). -/
  | dec (op : Operand)
  /-- `print_obj`, 1OP:10 (R145). -/
  | printObj (op : Operand)
  /-- `ret`, 1OP:11 (R207). -/
  | ret (op : Operand)
  /-- `rtrue`, 0OP:0 (R205). -/
  | rtrue
  /-- `rfalse`, 0OP:1 (R206). -/
  | rfalse
  /-- `print`, 0OP:2 (R144). -/
  | print
  /-- `quit`, 0OP:10 (R209). -/
  | quit
  /-- `new_line`, 0OP:11 (R148). -/
  | newLine
  /-- `call`, VAR:0 (R201). -/
  | call (ops : List Operand)
  /-- `print_char`, VAR:5 (R147). -/
  | printChar (ops : List Operand)
  /-- `print_num`, VAR:6 (R146). -/
  | printNum (ops : List Operand)
  /-- The extended form, the single byte 0xBE (R76, R101). -/
  | extendedForm
  /-- The unimplemented key 2OP:0 (R84, R103). -/
  | unimpl2OP_0 (form : Form2OP) (ops : List Operand)
  /-- The unimplemented key 2OP:1 (R84, R103). -/
  | unimpl2OP_1 (form : Form2OP) (ops : List Operand)
  /-- The unimplemented key 2OP:2 (R84, R103). -/
  | unimpl2OP_2 (form : Form2OP) (ops : List Operand)
  /-- The unimplemented key 2OP:3 (R84, R103). -/
  | unimpl2OP_3 (form : Form2OP) (ops : List Operand)
  /-- The unimplemented key 2OP:4 (R84, R103). -/
  | unimpl2OP_4 (form : Form2OP) (ops : List Operand)
  /-- The unimplemented key 2OP:5 (R84, R103). -/
  | unimpl2OP_5 (form : Form2OP) (ops : List Operand)
  /-- The unimplemented key 2OP:7 (R84, R103). -/
  | unimpl2OP_7 (form : Form2OP) (ops : List Operand)
  /-- The unimplemented key 2OP:8 (R84, R103). -/
  | unimpl2OP_8 (form : Form2OP) (ops : List Operand)
  /-- The unimplemented key 2OP:9 (R84, R103). -/
  | unimpl2OP_9 (form : Form2OP) (ops : List Operand)
  /-- The unimplemented key 2OP:15 (R84, R103). -/
  | unimpl2OP_15 (form : Form2OP) (ops : List Operand)
  /-- The unimplemented key 2OP:16 (R84, R103). -/
  | unimpl2OP_16 (form : Form2OP) (ops : List Operand)
  /-- The unimplemented key 2OP:17 (R84, R103). -/
  | unimpl2OP_17 (form : Form2OP) (ops : List Operand)
  /-- The unimplemented key 2OP:18 (R84, R103). -/
  | unimpl2OP_18 (form : Form2OP) (ops : List Operand)
  /-- The unimplemented key 2OP:19 (R84, R103). -/
  | unimpl2OP_19 (form : Form2OP) (ops : List Operand)
  /-- The unimplemented key 2OP:22 (R84, R103). -/
  | unimpl2OP_22 (form : Form2OP) (ops : List Operand)
  /-- The unimplemented key 2OP:25 (R84, R103). -/
  | unimpl2OP_25 (form : Form2OP) (ops : List Operand)
  /-- The unimplemented key 2OP:26 (R84, R103). -/
  | unimpl2OP_26 (form : Form2OP) (ops : List Operand)
  /-- The unimplemented key 2OP:27 (R84, R103). -/
  | unimpl2OP_27 (form : Form2OP) (ops : List Operand)
  /-- The unimplemented key 2OP:28 (R84, R103). -/
  | unimpl2OP_28 (form : Form2OP) (ops : List Operand)
  /-- The unimplemented key 2OP:29 (R84, R103). -/
  | unimpl2OP_29 (form : Form2OP) (ops : List Operand)
  /-- The unimplemented key 2OP:30 (R84, R103). -/
  | unimpl2OP_30 (form : Form2OP) (ops : List Operand)
  /-- The unimplemented key 2OP:31 (R84, R103). -/
  | unimpl2OP_31 (form : Form2OP) (ops : List Operand)
  /-- The unimplemented key 1OP:0 (R84, R103). -/
  | unimpl1OP_0 (op : Operand)
  /-- The unimplemented key 1OP:4 (R84, R103). -/
  | unimpl1OP_4 (op : Operand)
  /-- The unimplemented key 1OP:7 (R84, R103). -/
  | unimpl1OP_7 (op : Operand)
  /-- The unimplemented key 1OP:8 (R84, R103). -/
  | unimpl1OP_8 (op : Operand)
  /-- The unimplemented key 1OP:9 (R84, R103). -/
  | unimpl1OP_9 (op : Operand)
  /-- The unimplemented key 1OP:12 (R84, R103). -/
  | unimpl1OP_12 (op : Operand)
  /-- The unimplemented key 1OP:13 (R84, R103). -/
  | unimpl1OP_13 (op : Operand)
  /-- The unimplemented key 1OP:14 (R84, R103). -/
  | unimpl1OP_14 (op : Operand)
  /-- The unimplemented key 1OP:15 (R84, R103). -/
  | unimpl1OP_15 (op : Operand)
  /-- The unimplemented key 0OP:3 (R84, R103). -/
  | unimpl0OP_3
  /-- The unimplemented key 0OP:4 (R84, R103). -/
  | unimpl0OP_4
  /-- The unimplemented key 0OP:5 (R84, R103). -/
  | unimpl0OP_5
  /-- The unimplemented key 0OP:6 (R84, R103). -/
  | unimpl0OP_6
  /-- The unimplemented key 0OP:7 (R84, R103). -/
  | unimpl0OP_7
  /-- The unimplemented key 0OP:8 (R84, R103). -/
  | unimpl0OP_8
  /-- The unimplemented key 0OP:9 (R84, R103). -/
  | unimpl0OP_9
  /-- The unimplemented key 0OP:12 (R84, R103). -/
  | unimpl0OP_12
  /-- The unimplemented key 0OP:13 (R84, R103). -/
  | unimpl0OP_13
  /-- The unimplemented key 0OP:15 (R84, R103). -/
  | unimpl0OP_15
  /-- The unimplemented key VAR:1 (R84, R103). -/
  | unimplVAR_1 (ops : List Operand)
  /-- The unimplemented key VAR:2 (R84, R103). -/
  | unimplVAR_2 (ops : List Operand)
  /-- The unimplemented key VAR:3 (R84, R103). -/
  | unimplVAR_3 (ops : List Operand)
  /-- The unimplemented key VAR:4 (R84, R103), `sread`. -/
  | unimplVAR_4 (ops : List Operand)
  /-- The unimplemented key VAR:7 (R84, R103). -/
  | unimplVAR_7 (ops : List Operand)
  /-- The unimplemented key VAR:8 (R84, R103). -/
  | unimplVAR_8 (ops : List Operand)
  /-- The unimplemented key VAR:9 (R84, R103). -/
  | unimplVAR_9 (ops : List Operand)
  /-- The unimplemented key VAR:10 (R84, R103). -/
  | unimplVAR_10 (ops : List Operand)
  /-- The unimplemented key VAR:11 (R84, R103). -/
  | unimplVAR_11 (ops : List Operand)
  /-- The unimplemented key VAR:12 (R84, R103). -/
  | unimplVAR_12 (ops : List Operand)
  /-- The unimplemented key VAR:13 (R84, R103). -/
  | unimplVAR_13 (ops : List Operand)
  /-- The unimplemented key VAR:14 (R84, R103). -/
  | unimplVAR_14 (ops : List Operand)
  /-- The unimplemented key VAR:15 (R84, R103). -/
  | unimplVAR_15 (ops : List Operand)
  /-- The unimplemented key VAR:16 (R84, R103). -/
  | unimplVAR_16 (ops : List Operand)
  /-- The unimplemented key VAR:17 (R84, R103). -/
  | unimplVAR_17 (ops : List Operand)
  /-- The unimplemented key VAR:18 (R84, R103). -/
  | unimplVAR_18 (ops : List Operand)
  /-- The unimplemented key VAR:19 (R84, R103). -/
  | unimplVAR_19 (ops : List Operand)
  /-- The unimplemented key VAR:20 (R84, R103). -/
  | unimplVAR_20 (ops : List Operand)
  /-- The unimplemented key VAR:21 (R84, R103). -/
  | unimplVAR_21 (ops : List Operand)
  /-- The unimplemented key VAR:22 (R84, R103). -/
  | unimplVAR_22 (ops : List Operand)
  /-- The unimplemented key VAR:23 (R84, R103). -/
  | unimplVAR_23 (ops : List Operand)
  /-- The unimplemented key VAR:24 (R84, R103). -/
  | unimplVAR_24 (ops : List Operand)
  /-- The unimplemented key VAR:25 (R84, R103). -/
  | unimplVAR_25 (ops : List Operand)
  /-- The unimplemented key VAR:26 (R84, R103). -/
  | unimplVAR_26 (ops : List Operand)
  /-- The unimplemented key VAR:27 (R84, R103). -/
  | unimplVAR_27 (ops : List Operand)
  /-- The unimplemented key VAR:28 (R84, R103). -/
  | unimplVAR_28 (ops : List Operand)
  /-- The unimplemented key VAR:29 (R84, R103). -/
  | unimplVAR_29 (ops : List Operand)
  /-- The unimplemented key VAR:30 (R84, R103). -/
  | unimplVAR_30 (ops : List Operand)
  /-- The unimplemented key VAR:31 (R84, R103). -/
  | unimplVAR_31 (ops : List Operand)
deriving DecidableEq, Repr

end Sys2Proof
end

