-- ==== Sys2Proof/WellFormed.lean ====
section
/-! DEFINITION. Which terms of Instr are instructions: those whose fields have the shape that the
decoder of spec/40_decode_dispatch.md R101 can give them. The operand COUNT of a variable-form
instruction is not checked here: a wrong count decodes, and raises InvalidOperandCount when it runs
(R104). -/

namespace Sys2Proof

/-- The operand is there: the decoder "never puts an Omitted operand in the list" (R105). -/
def Operand.isPresent : Operand → Bool
  | .omitted => false
  | .large _ | .small _ | .var _ => true

/-- The operand has one byte and a type the long form can give: SmallConst or Variable (R73). -/
def Operand.isOneByte : Operand → Bool
  | .small _ | .var _ => true
  | .large _ | .omitted => false

/-- The variable form holds "zero to four operands" (R70, R75), none of them Omitted. -/
def wfVariable (ops : List Operand) : Bool :=
  decide (ops.length ≤ 4) && ops.all Operand.isPresent

/-- The long form holds exactly two one-byte operands (R73). -/
def wf2OP : Form2OP → List Operand → Bool
  | .long, ops => decide (ops.length = 2) && ops.all Operand.isOneByte
  | .vari, ops => wfVariable ops

/-- The fields of the instruction have the shape its class and form give them. -/
def Instr.wf : Instr → Bool
  | .jin form ops => wf2OP form ops
  | .testAttr form ops => wf2OP form ops
  | .setAttr form ops => wf2OP form ops
  | .clearAttr form ops => wf2OP form ops
  | .store form ops => wf2OP form ops
  | .insertObj form ops => wf2OP form ops
  | .add form ops => wf2OP form ops
  | .sub form ops => wf2OP form ops
  | .div form ops => wf2OP form ops
  | .mod form ops => wf2OP form ops
  | .getSibling op => op.isPresent
  | .getChild op => op.isPresent
  | .getParent op => op.isPresent
  | .inc op => op.isPresent
  | .dec op => op.isPresent
  | .printObj op => op.isPresent
  | .ret op => op.isPresent
  | .rtrue => true
  | .rfalse => true
  | .print => true
  | .quit => true
  | .newLine => true
  | .call ops => wfVariable ops
  | .printChar ops => wfVariable ops
  | .printNum ops => wfVariable ops
  | .extendedForm => true
  | .unimpl2OP_0 form ops => wf2OP form ops
  | .unimpl2OP_1 form ops => wf2OP form ops
  | .unimpl2OP_2 form ops => wf2OP form ops
  | .unimpl2OP_3 form ops => wf2OP form ops
  | .unimpl2OP_4 form ops => wf2OP form ops
  | .unimpl2OP_5 form ops => wf2OP form ops
  | .unimpl2OP_7 form ops => wf2OP form ops
  | .unimpl2OP_8 form ops => wf2OP form ops
  | .unimpl2OP_9 form ops => wf2OP form ops
  | .unimpl2OP_15 form ops => wf2OP form ops
  | .unimpl2OP_16 form ops => wf2OP form ops
  | .unimpl2OP_17 form ops => wf2OP form ops
  | .unimpl2OP_18 form ops => wf2OP form ops
  | .unimpl2OP_19 form ops => wf2OP form ops
  | .unimpl2OP_22 form ops => wf2OP form ops
  | .unimpl2OP_25 form ops => wf2OP form ops
  | .unimpl2OP_26 form ops => wf2OP form ops
  | .unimpl2OP_27 form ops => wf2OP form ops
  | .unimpl2OP_28 form ops => wf2OP form ops
  | .unimpl2OP_29 form ops => wf2OP form ops
  | .unimpl2OP_30 form ops => wf2OP form ops
  | .unimpl2OP_31 form ops => wf2OP form ops
  | .unimpl1OP_0 op => op.isPresent
  | .unimpl1OP_4 op => op.isPresent
  | .unimpl1OP_7 op => op.isPresent
  | .unimpl1OP_8 op => op.isPresent
  | .unimpl1OP_9 op => op.isPresent
  | .unimpl1OP_12 op => op.isPresent
  | .unimpl1OP_13 op => op.isPresent
  | .unimpl1OP_14 op => op.isPresent
  | .unimpl1OP_15 op => op.isPresent
  | .unimpl0OP_3 => true
  | .unimpl0OP_4 => true
  | .unimpl0OP_5 => true
  | .unimpl0OP_6 => true
  | .unimpl0OP_7 => true
  | .unimpl0OP_8 => true
  | .unimpl0OP_9 => true
  | .unimpl0OP_12 => true
  | .unimpl0OP_13 => true
  | .unimpl0OP_15 => true
  | .unimplVAR_1 ops => wfVariable ops
  | .unimplVAR_2 ops => wfVariable ops
  | .unimplVAR_3 ops => wfVariable ops
  | .unimplVAR_4 ops => wfVariable ops
  | .unimplVAR_7 ops => wfVariable ops
  | .unimplVAR_8 ops => wfVariable ops
  | .unimplVAR_9 ops => wfVariable ops
  | .unimplVAR_10 ops => wfVariable ops
  | .unimplVAR_11 ops => wfVariable ops
  | .unimplVAR_12 ops => wfVariable ops
  | .unimplVAR_13 ops => wfVariable ops
  | .unimplVAR_14 ops => wfVariable ops
  | .unimplVAR_15 ops => wfVariable ops
  | .unimplVAR_16 ops => wfVariable ops
  | .unimplVAR_17 ops => wfVariable ops
  | .unimplVAR_18 ops => wfVariable ops
  | .unimplVAR_19 ops => wfVariable ops
  | .unimplVAR_20 ops => wfVariable ops
  | .unimplVAR_21 ops => wfVariable ops
  | .unimplVAR_22 ops => wfVariable ops
  | .unimplVAR_23 ops => wfVariable ops
  | .unimplVAR_24 ops => wfVariable ops
  | .unimplVAR_25 ops => wfVariable ops
  | .unimplVAR_26 ops => wfVariable ops
  | .unimplVAR_27 ops => wfVariable ops
  | .unimplVAR_28 ops => wfVariable ops
  | .unimplVAR_29 ops => wfVariable ops
  | .unimplVAR_30 ops => wfVariable ops
  | .unimplVAR_31 ops => wfVariable ops

/-- The instruction is well formed. -/
abbrev WellFormed (i : Instr) : Prop := i.wf = true

end Sys2Proof
end

