-- ==== Sys2Proof/Decode.lean ====
section
/-! DEFINITION. The decoder (spec/40_decode_dispatch.md R101, spec/30_encoding.md R71–R78), total on
any bytes, and after it the encoder and the end address (R82). The decoder works on the bytes from an
instruction's start address on, and reads no suffix byte. It refuses in one way only: a byte it must
read is past the bytes it was given, and it answers how far from the start the failed read was, which
the fetch turns into OutOfBounds (spec/90_conflicts.md C6). -/

namespace Sys2Proof

/-- Why bytes give no instruction. `truncated k`: the read that begins k bytes after the start
address goes past the bytes given. Raised by `decode`; the fetch turns it into the spec's OutOfBounds
(R101), so it is as the spec says and safe. -/
inductive DecodeStop where
  | truncated (k : Nat)
deriving DecidableEq, Repr

/-- The operand type of a 2-bit type code (R72). -/
def opType (c : BitVec 2) : OpType :=
  match c.toNat with
  | 0 => .largeConst
  | 1 => .smallConst
  | 2 => .varRef
  | _ => .omitted

/-- The operand type of a long-form type bit: 1 = Variable, 0 = SmallConst (R73, D43). -/
def longType (bit : Bool) : OpType := if bit then .varRef else .smallConst

/-- The four type fields of an operand-types byte, most significant first (R75). -/
def typeFields (tb : Byte) : List OpType :=
  [opType (tb.extractLsb' 6 2), opType (tb.extractLsb' 4 2), opType (tb.extractLsb' 2 2),
   opType (tb.extractLsb' 0 2)]

/-- The bytes an operand of a type takes (R72). -/
def OpType.size : OpType → Nat
  | .largeConst => 2
  | .smallConst | .varRef => 1
  | .omitted => 0

/-- The bytes of a word, high byte first: "Byte order is big-endian everywhere" (spec/20_memory.md R56). -/
def wordOfBytes (hi lo : Byte) : Word := hi ++ lo

/-- Fetch (R101): one operand of a type from the bytes left, and the bytes after it. -/
def fetchOperand : OpType → List Byte → Option (Operand × List Byte)
  | .largeConst, hi :: lo :: rest => some (.large (wordOfBytes hi lo), rest)
  | .smallConst, b :: rest => some (.small b, rest)
  | .varRef, b :: rest => some (.var b, rest)
  | .omitted, rest => some (.omitted, rest)
  | .largeConst, [_] | .largeConst, [] | .smallConst, [] | .varRef, [] => none

/-- The operands the type fields ask for, in field order, from the bytes left, the first of which is
p bytes after the start address: "stop consuming further operands once an Omitted field is seen" (R75). -/
def fetchOperands : List OpType → Nat → List Byte → Except DecodeStop (List Operand)
  | [], _, _ => .ok []
  | t :: ts, p, bs =>
    if t = .omitted then .ok []
    else
      match fetchOperand t bs with
      | none => .error (.truncated p)
      | some (o, rest) => (fetchOperands ts (p + t.size) rest).map (o :: ·)

/-- The form an opcode byte selects (R71). -/
inductive OpcodeForm where
  | extended
  | variable2OP
  | variableVAR
  | short (t : OpType)
  | long
deriving DecidableEq, Repr

/-- R71: "The tests are made in this order, and the first that holds wins". -/
def opcodeForm (b : Byte) : OpcodeForm :=
  if b = 0xBE then .extended
  else if 0xC0 ≤ b.toNat then (if b.getLsbD 5 then .variableVAR else .variable2OP)
  else if 0x80 ≤ b.toNat then .short (opType (b.extractLsb' 4 2))
  else .long

/-- The operand-count class of an opcode byte (R71). -/
def opcodeClass (b : Byte) : OpClass :=
  match opcodeForm b with
  | .extended => .ext
  | .variable2OP | .long => .op2
  | .variableVAR => .vari
  | .short .omitted => .op0
  | .short _ => .op1

/-- The opcode number of an opcode byte: b & 0x0F in the short form, b & 0x1F in the long and the
variable form (R73–R75); none in the extended form. -/
def opcodeNumber (b : Byte) : Option (BitVec 5) :=
  match opcodeForm b with
  | .extended => none
  | .short _ => some ((b.extractLsb' 0 4).setWidth 5)
  | .variable2OP | .variableVAR | .long => some (b.extractLsb' 0 5)

/-- A dispatch key with the form and the operands: (class, opcode number) of R78. -/
inductive Shape where
  | two (n : BitVec 5) (form : Form2OP) (ops : List Operand)
  | one (n : BitVec 5) (op : Operand)
  | zero (n : BitVec 5)
  | vari (n : BitVec 5) (ops : List Operand)
  | extended
deriving DecidableEq, Repr

/-- The key, form and operands of each constructor. The opcode numbers are the table of R83 and the
lists of R84. -/
def Instr.shape : Instr → Shape
  | .jin form ops => .two 6 form ops
  | .testAttr form ops => .two 10 form ops
  | .setAttr form ops => .two 11 form ops
  | .clearAttr form ops => .two 12 form ops
  | .store form ops => .two 13 form ops
  | .insertObj form ops => .two 14 form ops
  | .add form ops => .two 20 form ops
  | .sub form ops => .two 21 form ops
  | .div form ops => .two 23 form ops
  | .mod form ops => .two 24 form ops
  | .getSibling op => .one 1 op
  | .getChild op => .one 2 op
  | .getParent op => .one 3 op
  | .inc op => .one 5 op
  | .dec op => .one 6 op
  | .printObj op => .one 10 op
  | .ret op => .one 11 op
  | .rtrue => .zero 0
  | .rfalse => .zero 1
  | .print => .zero 2
  | .quit => .zero 10
  | .newLine => .zero 11
  | .call ops => .vari 0 ops
  | .printChar ops => .vari 5 ops
  | .printNum ops => .vari 6 ops
  | .extendedForm => .extended
  | .unimpl2OP_0 form ops => .two 0 form ops
  | .unimpl2OP_1 form ops => .two 1 form ops
  | .unimpl2OP_2 form ops => .two 2 form ops
  | .unimpl2OP_3 form ops => .two 3 form ops
  | .unimpl2OP_4 form ops => .two 4 form ops
  | .unimpl2OP_5 form ops => .two 5 form ops
  | .unimpl2OP_7 form ops => .two 7 form ops
  | .unimpl2OP_8 form ops => .two 8 form ops
  | .unimpl2OP_9 form ops => .two 9 form ops
  | .unimpl2OP_15 form ops => .two 15 form ops
  | .unimpl2OP_16 form ops => .two 16 form ops
  | .unimpl2OP_17 form ops => .two 17 form ops
  | .unimpl2OP_18 form ops => .two 18 form ops
  | .unimpl2OP_19 form ops => .two 19 form ops
  | .unimpl2OP_22 form ops => .two 22 form ops
  | .unimpl2OP_25 form ops => .two 25 form ops
  | .unimpl2OP_26 form ops => .two 26 form ops
  | .unimpl2OP_27 form ops => .two 27 form ops
  | .unimpl2OP_28 form ops => .two 28 form ops
  | .unimpl2OP_29 form ops => .two 29 form ops
  | .unimpl2OP_30 form ops => .two 30 form ops
  | .unimpl2OP_31 form ops => .two 31 form ops
  | .unimpl1OP_0 op => .one 0 op
  | .unimpl1OP_4 op => .one 4 op
  | .unimpl1OP_7 op => .one 7 op
  | .unimpl1OP_8 op => .one 8 op
  | .unimpl1OP_9 op => .one 9 op
  | .unimpl1OP_12 op => .one 12 op
  | .unimpl1OP_13 op => .one 13 op
  | .unimpl1OP_14 op => .one 14 op
  | .unimpl1OP_15 op => .one 15 op
  | .unimpl0OP_3 => .zero 3
  | .unimpl0OP_4 => .zero 4
  | .unimpl0OP_5 => .zero 5
  | .unimpl0OP_6 => .zero 6
  | .unimpl0OP_7 => .zero 7
  | .unimpl0OP_8 => .zero 8
  | .unimpl0OP_9 => .zero 9
  | .unimpl0OP_12 => .zero 12
  | .unimpl0OP_13 => .zero 13
  | .unimpl0OP_15 => .zero 15
  | .unimplVAR_1 ops => .vari 1 ops
  | .unimplVAR_2 ops => .vari 2 ops
  | .unimplVAR_3 ops => .vari 3 ops
  | .unimplVAR_4 ops => .vari 4 ops
  | .unimplVAR_7 ops => .vari 7 ops
  | .unimplVAR_8 ops => .vari 8 ops
  | .unimplVAR_9 ops => .vari 9 ops
  | .unimplVAR_10 ops => .vari 10 ops
  | .unimplVAR_11 ops => .vari 11 ops
  | .unimplVAR_12 ops => .vari 12 ops
  | .unimplVAR_13 ops => .vari 13 ops
  | .unimplVAR_14 ops => .vari 14 ops
  | .unimplVAR_15 ops => .vari 15 ops
  | .unimplVAR_16 ops => .vari 16 ops
  | .unimplVAR_17 ops => .vari 17 ops
  | .unimplVAR_18 ops => .vari 18 ops
  | .unimplVAR_19 ops => .vari 19 ops
  | .unimplVAR_20 ops => .vari 20 ops
  | .unimplVAR_21 ops => .vari 21 ops
  | .unimplVAR_22 ops => .vari 22 ops
  | .unimplVAR_23 ops => .vari 23 ops
  | .unimplVAR_24 ops => .vari 24 ops
  | .unimplVAR_25 ops => .vari 25 ops
  | .unimplVAR_26 ops => .vari 26 ops
  | .unimplVAR_27 ops => .vari 27 ops
  | .unimplVAR_28 ops => .vari 28 ops
  | .unimplVAR_29 ops => .vari 29 ops
  | .unimplVAR_30 ops => .vari 30 ops
  | .unimplVAR_31 ops => .vari 31 ops

/-- The instruction of the key 2OP:n, n = 0..31 (R83, R84). -/
def instr2OP (n : Nat) (form : Form2OP) (ops : List Operand) : Instr :=
  match n with
  | 0 => .unimpl2OP_0 form ops
  | 1 => .unimpl2OP_1 form ops
  | 2 => .unimpl2OP_2 form ops
  | 3 => .unimpl2OP_3 form ops
  | 4 => .unimpl2OP_4 form ops
  | 5 => .unimpl2OP_5 form ops
  | 6 => .jin form ops
  | 7 => .unimpl2OP_7 form ops
  | 8 => .unimpl2OP_8 form ops
  | 9 => .unimpl2OP_9 form ops
  | 10 => .testAttr form ops
  | 11 => .setAttr form ops
  | 12 => .clearAttr form ops
  | 13 => .store form ops
  | 14 => .insertObj form ops
  | 15 => .unimpl2OP_15 form ops
  | 16 => .unimpl2OP_16 form ops
  | 17 => .unimpl2OP_17 form ops
  | 18 => .unimpl2OP_18 form ops
  | 19 => .unimpl2OP_19 form ops
  | 20 => .add form ops
  | 21 => .sub form ops
  | 22 => .unimpl2OP_22 form ops
  | 23 => .div form ops
  | 24 => .mod form ops
  | 25 => .unimpl2OP_25 form ops
  | 26 => .unimpl2OP_26 form ops
  | 27 => .unimpl2OP_27 form ops
  | 28 => .unimpl2OP_28 form ops
  | 29 => .unimpl2OP_29 form ops
  | 30 => .unimpl2OP_30 form ops
  | _ => .unimpl2OP_31 form ops

/-- The instruction of the key 1OP:n, n = 0..15 (R83, R84). -/
def instr1OP (n : Nat) (op : Operand) : Instr :=
  match n with
  | 0 => .unimpl1OP_0 op
  | 1 => .getSibling op
  | 2 => .getChild op
  | 3 => .getParent op
  | 4 => .unimpl1OP_4 op
  | 5 => .inc op
  | 6 => .dec op
  | 7 => .unimpl1OP_7 op
  | 8 => .unimpl1OP_8 op
  | 9 => .unimpl1OP_9 op
  | 10 => .printObj op
  | 11 => .ret op
  | 12 => .unimpl1OP_12 op
  | 13 => .unimpl1OP_13 op
  | 14 => .unimpl1OP_14 op
  | _ => .unimpl1OP_15 op

/-- The instruction of the key 0OP:n, n = 0..15 (R83, R84). -/
def instr0OP (n : Nat) : Instr :=
  match n with
  | 0 => .rtrue
  | 1 => .rfalse
  | 2 => .print
  | 3 => .unimpl0OP_3
  | 4 => .unimpl0OP_4
  | 5 => .unimpl0OP_5
  | 6 => .unimpl0OP_6
  | 7 => .unimpl0OP_7
  | 8 => .unimpl0OP_8
  | 9 => .unimpl0OP_9
  | 10 => .quit
  | 11 => .newLine
  | 12 => .unimpl0OP_12
  | 13 => .unimpl0OP_13
  | 14 => .extendedForm  -- 0xBE: R71 tests it first, so the short form never gives this key
  | _ => .unimpl0OP_15

/-- The instruction of the key VAR:n, n = 0..31 (R83, R84). -/
def instrVAR (n : Nat) (ops : List Operand) : Instr :=
  match n with
  | 0 => .call ops
  | 1 => .unimplVAR_1 ops
  | 2 => .unimplVAR_2 ops
  | 3 => .unimplVAR_3 ops
  | 4 => .unimplVAR_4 ops
  | 5 => .printChar ops
  | 6 => .printNum ops
  | 7 => .unimplVAR_7 ops
  | 8 => .unimplVAR_8 ops
  | 9 => .unimplVAR_9 ops
  | 10 => .unimplVAR_10 ops
  | 11 => .unimplVAR_11 ops
  | 12 => .unimplVAR_12 ops
  | 13 => .unimplVAR_13 ops
  | 14 => .unimplVAR_14 ops
  | 15 => .unimplVAR_15 ops
  | 16 => .unimplVAR_16 ops
  | 17 => .unimplVAR_17 ops
  | 18 => .unimplVAR_18 ops
  | 19 => .unimplVAR_19 ops
  | 20 => .unimplVAR_20 ops
  | 21 => .unimplVAR_21 ops
  | 22 => .unimplVAR_22 ops
  | 23 => .unimplVAR_23 ops
  | 24 => .unimplVAR_24 ops
  | 25 => .unimplVAR_25 ops
  | 26 => .unimplVAR_26 ops
  | 27 => .unimplVAR_27 ops
  | 28 => .unimplVAR_28 ops
  | 29 => .unimplVAR_29 ops
  | 30 => .unimplVAR_30 ops
  | _ => .unimplVAR_31 ops

/-- Decode (R101) of the bytes from the start address on. -/
def decode : List Byte → Except DecodeStop Instr
  | [] => .error (.truncated 0)
  | b :: rest =>
    match opcodeForm b with
    | .extended => .ok .extendedForm
    | .long =>
      (fetchOperands [longType (b.getLsbD 6), longType (b.getLsbD 5)] 1 rest).map
        (instr2OP (b.extractLsb' 0 5).toNat .long)
    | .short .omitted => .ok (instr0OP (b.extractLsb' 0 4).toNat)
    | .short t =>
      match fetchOperand t rest with
      | none => .error (.truncated 1)
      | some (o, _) => .ok (instr1OP (b.extractLsb' 0 4).toNat o)
    | .variable2OP =>
      match rest with
      | [] => .error (.truncated 1)
      | tb :: more =>
        (fetchOperands (typeFields tb) 2 more).map (instr2OP (b.extractLsb' 0 5).toNat .vari)
    | .variableVAR =>
      match rest with
      | [] => .error (.truncated 1)
      | tb :: more => (fetchOperands (typeFields tb) 2 more).map (instrVAR (b.extractLsb' 0 5).toNat)

/-- The longest instruction before any suffix: the variable form with four LargeConst operands,
"8 operand bytes and a 10-byte instruction before any suffix" (R102). -/
def maxInstrBytes : Nat := 10

/-- The operand's two type bits (R72). -/
def Operand.typeCode : Operand → BitVec 2
  | .large _ => 0
  | .small _ => 1
  | .var _ => 2
  | .omitted => 3

/-- The operand's bytes (R72). -/
def Operand.bytes : Operand → List Byte
  | .large w => [w.extractLsb' 8 8, w.extractLsb' 0 8]
  | .small b => [b]
  | .var v => [v]
  | .omitted => []

/-- The operand's size in bytes (R72, R82). -/
def Operand.size (o : Operand) : Nat := o.bytes.length

/-- The long form's type bit: 1 for a Variable (R73). -/
def Operand.longBit (o : Operand) : BitVec 1 := if o.typeCode = 2 then 1 else 0

/-- The operand-types byte of the variable form, the fields after the last operand Omitted (R75).
The fields after the first Omitted are ignored by the decoder; the encoder writes 3 there
(DESIGN CHOICE, safe, log entry 16). -/
def typesByte (ops : List Operand) : Byte :=
  (ops.getD 0 .omitted).typeCode ++ (ops.getD 1 .omitted).typeCode ++
    (ops.getD 2 .omitted).typeCode ++ (ops.getD 3 .omitted).typeCode

/-- The opcode byte of a key in its form (R73–R76, the list at the end of R83). -/
def Shape.opbyte : Shape → Byte
  | .two n .long ops =>
    0#1 ++ (ops.getD 0 .omitted).longBit ++ (ops.getD 1 .omitted).longBit ++ n
  | .two n .vari _ => 0b110#3 ++ n
  | .one n op => 0b10#2 ++ op.typeCode ++ n.setWidth 4
  | .zero n => 0b1011#4 ++ n.setWidth 4
  | .vari n _ => 0b111#3 ++ n
  | .extended => 0xBE

/-- The operand-count class (R71). -/
def Shape.cls : Shape → OpClass
  | .two _ _ _ => .op2
  | .one _ _ => .op1
  | .zero _ => .op0
  | .vari _ _ => .vari
  | .extended => .ext

/-- The opcode number; the extended form has none (spec/95_test_vectors.md ERR-1). -/
def Shape.number : Shape → Option (BitVec 5)
  | .two n _ _ | .one n _ | .zero n | .vari n _ => some n
  | .extended => none

/-- The operand list. -/
def Shape.operands : Shape → List Operand
  | .two _ _ ops | .vari _ ops => ops
  | .one _ op => [op]
  | .zero _ | .extended => []

/-- The types byte, in the variable form only (R70). -/
def Shape.types : Shape → List Byte
  | .two _ .vari ops | .vari _ ops => [typesByte ops]
  | .two _ .long _ | .one _ _ | .zero _ | .extended => []

/-- The bytes of an instruction, less its suffixes (R70, R73–R76). -/
def encode (i : Instr) : List Byte :=
  i.shape.opbyte :: (i.shape.types ++ i.shape.operands.flatMap Operand.bytes)

/-- The decoded instruction as R101's record: start address, opcode byte, class, opcode number,
operands and end address. -/
structure Inst where
  start : Int
  opbyte : Byte
  cls : OpClass
  opcode : Option (BitVec 5)
  operands : List Operand
  stop : Int
deriving DecidableEq, Repr

/-- The bytes from the start address to the end address:
"1 + (1 if variable form) + Σ operand sizes" (R82). -/
def Instr.size (i : Instr) : Nat :=
  1 + i.shape.types.length + (i.shape.operands.map Operand.size).sum

/-- R101's record for an instruction at a start address. -/
def Instr.inst (i : Instr) (start : Int) : Inst where
  start := start
  opbyte := i.shape.opbyte
  cls := i.shape.cls
  opcode := i.shape.number
  operands := i.shape.operands
  stop := start + i.size

/-- The bytes of an instruction whose bits are w as spec/opcode_table.json numbers them: byte k of the
first nbits / 8 is bits 8k+7..8k of w, and every later byte up to the longest instruction is 0. -/
def tableBytes (nbits w : Nat) : List Byte :=
  (List.range maxInstrBytes).map fun k => if 8 * k < nbits then BitVec.ofNat 8 (w >>> (8 * k)) else 0

/-- The instruction the decoder reads from such a word. -/
def decodeTableWord (nbits w : Nat) : Option Instr :=
  match decode (tableBytes nbits w) with
  | .ok i => some i
  | .error _ => none

end Sys2Proof
end

