-- ==== Sys2Proof/Config.lean ====
section
/-! DEFINITION. What an implementation fixes and the spec leaves OPEN as a value that only reaches
the output sink (spec/00_scope.md R5). Both constants are opaque: nothing in Lean can tell what they
are. The other open parameters (MEM_SIZE, MAX_EVAL_STACK, MAX_FRAMES, OBJTAB) steer what the block
does and stand in State as plain data (log entries 3, 5, 8). -/

namespace Sys2Proof

/-- CTRL_GLYPH (spec/41_text.md R139, spec/92_eei_decisions.md D24): the string emitted for alphabet
A2 code 6 outside the stream-start escape. DESIGN CHOICE, safe: an opaque constant (log entry 6). -/
opaque Config.ctrlGlyph : Text

/-- ZSCII_OUT outside 32–126 (spec/41_text.md R140, spec/92_eei_decisions.md D25).
DESIGN CHOICE, safe: an opaque function (log entry 7). Machine/Text.lean fixes 32–126. -/
opaque Config.zsciiOther : Word → Text

end Sys2Proof
end

