-- ==== Sys2Proof/Machine/State.lean ====
section
/-! DEFINITION. The block's state (spec/10_state.md R20–R33) with the state of the two collaborators
it reaches through ports (R20: the ObjectTable's records and the sink's history), the fault kinds of
spec/60_exceptions.md R260, and the state right after Reset. All of it is plain data. -/

namespace Sys2Proof.Machine

/-- The memory image (spec/20_memory.md R50): its length MEM_SIZE, and the bytes that differ from what
an unlisted address inside the image reads as (Memory.unlisted in Ops.lean; log entry 3). An address
outside 0..size-1 does not exist, and reading it raises OutOfBounds. -/
structure Memory where
  size : Nat
  cells : List Host.Cell
deriving DecidableEq, Repr

/-- The header registers, latched at reset (R30, spec/20_memory.md R59). -/
structure Header where
  version : Byte
  initPc : Word
  dict : Word
  objTab : Word
  globalsTab : Word
  abbrevTab : Word
deriving DecidableEq, Repr

/-- One activation record (R25). `pc` is a byte address, an unbounded integer (R28, log entry 10).
`locals` holds locals 1–15 at indexes 0–14, a slot none while it is unset (R23). `stack` is the
evaluation stack, its top first (R24, log entry 14). -/
structure Frame where
  pc : Int
  locals : Vector (Option Word) 15
  stack : List Word
deriving DecidableEq, Repr

/-- One record of the ObjectTable (spec/42_objects.md R170): Parent, Sibling and Child index, "0 = none",
the 32 attribute flags by attribute number (R172), and the decoded name. -/
structure GameObject where
  parent : Word
  sibling : Word
  child : Word
  attrs : Vector Bool 32
  name : Text
deriving DecidableEq, Repr

/-- One call the output sink has received (spec/60_exceptions.md R270). -/
inductive SinkCall where
  | print (text : Text)
  | newLine
deriving DecidableEq, Repr

/-- STATUS (R30). -/
inductive Status where
  | running | halted
deriving DecidableEq, Repr

/-- "which table" an InitError records (spec/60_exceptions.md R260, kind 15). -/
inductive InitTable where
  | header | globals | abbreviations | objectTable | dictionary
deriving DecidableEq, Repr

/-- The fault kinds of R260, with the information the table records beside the pc. What DecodeError
and UnimplementedOpcode record (opcode byte, class, opcode) is what DIAG_* hold (log entry 11). -/
inductive FaultKind where
  | decodeError
  | unimplementedOpcode
  | outOfBounds (address : Int)
  | invalidVariableIndex (number : Word)
  | unsetLocal (slot : Word)
  | stackUnderflow
  | stackOverflow
  | callDepthOverflow
  | invalidLocalCount (count : Byte)
  | returnFromMain
  | invalidOperandCount (count : Nat)
  | divideByZero
  | invalidObject (number : Word)
  | invalidAttribute (number : Word)
  | initError (table : InitTable)
deriving DecidableEq, Repr

/-- HALT_REASON (R30). -/
inductive HaltReason where
  | none
  | normal
  | fault (k : FaultKind)
deriving DecidableEq, Repr

/-- The parameters the spec leaves OPEN that bound what a run may do (spec/00_scope.md R5, D7, D8);
`none` is ∞. They are fixed for a run; they stand in State so that a statement about every state is a
statement about every value of them (log entry 5). -/
structure Params where
  maxEvalStack : Option Nat
  maxFrames : Option Nat
deriving DecidableEq, Repr

/-- The state tuple of R20. `cur` is the current (top) frame and `callers` the frames under it, the
nearest caller first, so the call stack is never empty (R26, log entry 14). `objs` holds objects
1..N at indexes 0..N-1. `sink` is the sink's history, oldest call first. -/
structure State where
  mem : Memory
  hdr : Header
  globals : Vector Word 240
  abbrevs : Vector Text 96
  cur : Frame
  callers : List Frame
  status : Status
  haltReason : HaltReason
  diagPc : Int
  diagOpbyte : Option Byte
  diagClass : Option OpClass
  diagOpcode : Option (BitVec 5)
  params : Params
  objs : List GameObject
  sink : List SinkCall
deriving DecidableEq, Repr

/-- Why a step of the model gives no next state. The spec's own fault kinds are NOT here: each of them
halts the run in a next state, as R261 says (log entry 1). -/
inductive Fault where
  /-- A step asked of a halted block: "if STATUS = Halted: no step" (R100), "stuck" (I19). Raised by
  `step` only. Safe: the spec gives no next state either. -/
  | halted
deriving DecidableEq, Repr

/-- Why a step is refused. -/
inductive Refusal where
  /-- The instruction has no meaning yet. Raised by `exec`'s arms only; no arm raises it in this
  model. Safe. -/
  | notModelled (mnemonic : String)
deriving DecidableEq, Repr

/-- The initial frame at a pc: "locals = none for all 15, stack = []" (spec/70_reset_and_hazards.md R295). -/
def initialFrame (pc : Int) : Frame where
  pc := pc
  locals := Vector.replicate 15 none
  stack := []

/-- The blank image: 0x20000 bytes, nothing listed. DESIGN CHOICE, unsafe (log entry 4). -/
def blankImage : Memory where
  size := 0x20000
  cells := []

/-- The machine right after a successful Reset (R33) of the blank image, on which no story file has
been loaded: every header word, global and instruction byte reads 0xFF.. and every abbreviation is the
string its packed address 0xFFFF leads to, the one word 0xFFFF (codes 31, 31, 31: "zzz").
DESIGN CHOICE, unsafe (log entries 4, 5, 8, 9); Tests/Slice0.lean proves it equal to `boot blankImage`. -/
def State.reset : State where
  mem := blankImage
  hdr := ⟨0xFF, 0xFFFF, 0xFFFF, 0xFFFF, 0xFFFF, 0xFFFF⟩
  globals := Vector.replicate 240 0xFFFF
  abbrevs := Vector.replicate 96 ['z', 'z', 'z']
  cur := initialFrame 0xFFFF
  callers := []
  status := .running
  haltReason := .none
  diagPc := 0
  diagOpbyte := none
  diagClass := none
  diagOpcode := none
  params := ⟨none, none⟩
  objs := []
  sink := []

end Sys2Proof.Machine
end

