-- ==== Sys2Proof/Machine/Ops.lean ====
section
/-! DEFINITION. The named operations over the memory image, the variable-number space, the frames, the
sink and the status registers: spec/20_memory.md R52–R54, spec/10_state.md R34–R36,
spec/43_frames_calls.md R204, spec/60_exceptions.md R261, R267. Every meaning is written over these. -/

namespace Sys2Proof.Machine

/-! ## The memory image -/

/-- What an address inside the image reads as when it is not listed: 0xFF, a blank image's byte.
DESIGN CHOICE (log entry 3): the loaded file gives every byte of the image, so this is only how an
image is written down, but for the blank image of State.reset. -/
def Memory.unlisted : Byte := 0xFF

/-- The byte listed for an address, or the unlisted byte. -/
def lookupCell : List Host.Cell → Nat → Byte
  | [], _ => Memory.unlisted
  | c :: rest, a => if c.1 = a then c.2 else lookupCell rest a

/-- The cells with a byte listed for an address, in rising order. -/
def insertCell (a : Nat) (v : Byte) : List Host.Cell → List Host.Cell
  | [] => [(a, v)]
  | c :: rest =>
    if a < c.1 then (a, v) :: c :: rest
    else if a = c.1 then (a, v) :: rest
    else c :: insertCell a v rest

/-- The cells with an address's byte set: the unlisted byte removes the entry. -/
def setCell (a : Nat) (v : Byte) (cells : List Host.Cell) : List Host.Cell :=
  if v = Memory.unlisted then cells.filter (fun c => decide (c.1 ≠ a)) else insertCell a v cells

/-- The canonical form of an image: addresses strictly rising and inside the image, no entry equal to
the unlisted byte. -/
def Memory.wf (m : Memory) : Bool :=
  decide (m.cells.Pairwise (fun c d => c.1 < d.1)) &&
    m.cells.all (fun c => decide (c.1 < m.size) && decide (c.2 ≠ Memory.unlisted))

/-- The address lies inside the image. -/
def Memory.has (m : Memory) (a : Int) : Bool := decide (0 ≤ a) && decide (a < m.size)

/-- MemRead(a, 1) (R52): none where it raises OutOfBounds. -/
def Memory.readByte (m : Memory) (a : Int) : Option Byte :=
  if m.has a then some (lookupCell m.cells a.toNat) else none

/-- MemRead(a, 2) (R53), big-endian: none where it raises OutOfBounds. -/
def Memory.readWord (m : Memory) (a : Int) : Option Word :=
  match m.readByte a, m.readByte (a + 1) with
  | some hi, some lo => some (wordOfBytes hi lo)
  | _, _ => none

/-- MemWrite(a, 1, v) (R54): none where it raises OutOfBounds. No instruction calls it. -/
def Memory.writeByte (m : Memory) (a : Int) (v : Byte) : Option Memory :=
  if m.has a then some { m with cells := setCell a.toNat v m.cells } else none

/-- MemWrite(a, 2, v) (R54), high byte first. No instruction calls it. -/
def Memory.writeWord (m : Memory) (a : Int) (v : Word) : Option Memory :=
  if m.has a && m.has (a + 1) then
    let cells := setCell a.toNat (v.extractLsb' 8 8) m.cells
    some { m with cells := setCell (a + 1).toNat (v.extractLsb' 0 8) cells }
  else none

/-- The first n words at an address and on, or the address of the first that cannot be read. -/
def Memory.readWords (m : Memory) : Nat → Int → Except Int (List Word)
  | 0, _ => .ok []
  | n + 1, a =>
    match m.readWord a with
    | none => .error a
    | some w => (m.readWords n (a + 2)).map (w :: ·)

/-! ## Updates of the state -/

/-- The state with another pc in the current frame. -/
def State.withPc (s : State) (a : Int) : State := { s with cur := { s.cur with pc := a } }

/-- The state with another evaluation stack in the current frame. -/
def State.withStack (s : State) (k : List Word) : State := { s with cur := { s.cur with stack := k } }

/-- The state with local slot n (1–15) of the current frame holding a word. -/
def State.withLocal (s : State) (n : Nat) (x : Word) : State :=
  { s with cur := { s.cur with locals := s.cur.locals.setIfInBounds (n - 1) (some x) } }

/-- The state with global cell i (0–239) holding a word. -/
def State.withGlobal (s : State) (i : Nat) (x : Word) : State :=
  { s with globals := s.globals.setIfInBounds i x }

/-- The state with another current frame and other callers. -/
def State.withFrames (s : State) (f : Frame) (cs : List Frame) : State :=
  { s with cur := f, callers := cs }

/-- The state with another call in the sink's history, as the newest (R270). -/
def State.emit (s : State) (c : SinkCall) : State := { s with sink := s.sink ++ [c] }

/-- The state with other ObjectTable records. -/
def State.withObjs (s : State) (os : List GameObject) : State := { s with objs := os }

/-- The normal halt of R267: STATUS, HALT_REASON and DIAG_PC are set and "The rest of the state is kept
exactly" (log entry 12). -/
def State.haltNormally (s : State) (start : Int) : State :=
  { s with status := .halted, haltReason := .normal, diagPc := start }

/-- Taking a fault, `raise K(info)` (R261): STATUS <- Halted, HALT_REASON <- K, DIAG_PC <- the address
the step fetched at, and DIAG_OPBYTE, DIAG_CLASS, DIAG_OPCODE from whatever decode had produced. The
rest of the state is kept as it stands at the fault (R262, log entry 2). There is no return from a
fault (R263). -/
def State.takeFault (s : State) (k : FaultKind) (start : Int) (opbyte : Option Byte)
    (cls : Option OpClass) (opcode : Option (BitVec 5)) : State :=
  { s with
    status := .halted, haltReason := .fault k, diagPc := start, diagOpbyte := opbyte,
    diagClass := cls, diagOpcode := opcode }

/-! ## Actions: what a handler is written in

An action on the state either answers a value or raises a fault; either way it gives the state as it
then stands, so that effects before a fault stay (R262). -/

/-- What an action gives: a value or a fault raised, and the state as it then stands. -/
inductive Res (α : Type) where
  | ok (a : α) (s : State)
  | error (k : FaultKind) (s : State)
deriving DecidableEq, Repr

/-- An action of a handler. -/
abbrev Act (α : Type) := State → Res α

/-- The action that answers a value and changes nothing. -/
def answer {α : Type} (a : α) : Act α := fun s => .ok a s

/-- One action and then another, which uses its value; a fault raised by the first ends both. -/
def andThen {α β : Type} (m : Act α) (f : α → Act β) : Act β := fun s =>
  match m s with
  | .ok a t => f a t
  | .error k t => .error k t

/-- `raise K` inside a handler. -/
def raise {α : Type} (k : FaultKind) : Act α := fun s => .error k s

/-- A value of the current state. -/
def look {α : Type} (f : State → α) : Act α := fun s => .ok (f s) s

/-- A change of the current state. -/
def update (f : State → State) : Act Unit := fun s => .ok () (f s)

/-- MemRead(a, 1) in a handler (R52). -/
def memByte (a : Int) : Act Byte := fun s =>
  match s.mem.readByte a with
  | some b => .ok b s
  | none => .error (.outOfBounds a) s

/-- The n words at an address and on in a handler, read in order (R53). -/
def memWords (n : Nat) (a : Int) : Act (List Word) := fun s =>
  match s.mem.readWords n a with
  | .ok ws => .ok ws s
  | .error b => .error (.outOfBounds b) s

/-- `pc <- a` (R7). -/
def setPc (a : Int) : Act Unit := update (·.withPc a)

/-- A call of the sink port (R270); it never fails. -/
def emit (c : SinkCall) : Act Unit := update (·.emit c)

/-- Push(x) (spec/10_state.md R36). -/
def push (x : Word) : Act Unit := fun s =>
  if s.params.maxEvalStack = some s.cur.stack.length then .error .stackOverflow s
  else .ok () (s.withStack (x :: s.cur.stack))

/-- Pop() (R36). -/
def pop : Act Word := fun s =>
  match s.cur.stack with
  | [] => .error .stackUnderflow s
  | x :: k => .ok x (s.withStack k)

/-- ReadVar(v) (R34). -/
def readVar (v : Word) : Act Word := fun s =>
  if v.toNat = 0 then pop s
  else if v.toNat ≤ 15 then
    match s.cur.locals[v.toNat - 1]? with
    | some (some x) => .ok x s
    | _ => .error (.unsetLocal v) s
  else if v.toNat ≤ 254 then
    match s.globals[v.toNat - 16]? with
    | some x => .ok x s
    | none => .error (.invalidVariableIndex v) s
  else .error (.invalidVariableIndex v) s

/-- WriteVar(v, x) (R35). -/
def writeVar (v x : Word) : Act Unit := fun s =>
  if v.toNat = 0 then push x s
  else if v.toNat ≤ 15 then .ok () (s.withLocal v.toNat x)
  else if v.toNat ≤ 254 then .ok () (s.withGlobal (v.toNat - 16) x)
  else .error (.invalidVariableIndex v) s

/-- The word of a byte: zero extension (R21, spec/30_encoding.md R77). -/
def byteWord (b : Byte) : Word := b.setWidth 16

/-- `Frames <- dropLast(Frames)`, with ReturnFromMain in the initial frame (spec/43_frames_calls.md R204). -/
def popFrame : Act Unit := fun s =>
  match s.callers with
  | [] => .error .returnFromMain s
  | f :: cs => .ok () (s.withFrames f cs)

/-- `Frames <- Frames ++ [new]` (R201); the depth was checked before. -/
def pushFrame (f : Frame) : Act Unit := update fun s => s.withFrames f (s.cur :: s.callers)

/-- "if len(Frames) = MAX_FRAMES: raise CallDepthOverflow" (R201). -/
def checkDepth : Act Unit := fun s =>
  if s.params.maxFrames = some (s.callers.length + 1) then .error .callDepthOverflow s else .ok () s

/-- The return primitive Return(x) (R204): the caller's store byte is read now, at the return. -/
def returnWith (x : Word) : Act Unit :=
  andThen popFrame fun _ =>
  andThen (look (·.cur.pc)) fun q =>
  andThen (memByte q) fun v =>
  andThen (writeVar (byteWord v) x) fun _ =>
  setPc (q + 1)

/-- The end of an instruction: the state its handler leaves, or the fault it raised, taken (R261). -/
def settle (inst : Inst) : Res Unit → State
  | .ok _ s => s
  | .error k s => s.takeFault k inst.start (some inst.opbyte) (some inst.cls) inst.opcode

/-- The meaning of an instruction by its handler: the handler runs on the decoded record, and what it
leaves is the next state, a halted one if it raised a fault (R100, R261). -/
def runHandler (i : Instr) (h : Inst → Act Unit) (s : State) : Host.Outcome State Fault Refusal :=
  .next (settle (i.inst s.cur.pc) (h (i.inst s.cur.pc) s))

end Sys2Proof.Machine
end

