-- ==== Sys2Proof/Machine/Flags.lean ====
section
/-! DEFINITION. "The block has no flags, condition codes or predicate registers" (spec/10_state.md
R29): a branch-style instruction computes its condition and acts on it at once. What stands here is
that use of a condition, the branch suffix (spec/40_decode_dispatch.md R107, R108), and beside it the
store suffix (R106). -/

namespace Sys2Proof.Machine

/-- sext_14 (spec/00_scope.md R6): the signed value of a 14-bit field. -/
def sext14 (v : BitVec 14) : Int := if v.getLsbD 13 then (v.toNat : Int) - 0x4000 else v.toNat

/-- StoreResult(x, q) (R106): answers the address after the store byte. -/
def storeResult (x : Word) (q : Int) : Act Int :=
  andThen (memByte q) fun v =>
  andThen (writeVar (byteWord v) x) fun _ =>
  answer (q + 1)

/-- BranchBytes(q) (R107): the polarity, the offset and the address after the branch bytes. -/
def branchBytes (q : Int) : Act (Bool × Int × Int) :=
  andThen (memByte q) fun b1 =>
  if b1.getLsbD 6 then answer (b1.getLsbD 7, ((b1.extractLsb' 0 6).toNat : Int), q + 1)
  else
    andThen (memByte (q + 1)) fun b2 =>
    answer (b1.getLsbD 7, sext14 (b1.extractLsb' 0 6 ++ b2), q + 2)

/-- What a branch does once its bytes are read: "A branch fires when the tested condition equals the
byte's polarity"; offsets 0 and 1 return, any other jumps (R108). -/
def branchTo (fires : Bool) (off after : Int) : Act Unit :=
  if fires then
    if off = 0 then returnWith 0
    else if off = 1 then returnWith 1
    else setPc (after + off - 2)
  else setPc after

/-- Branch(cond, q) (R108). -/
def branch (cond : Bool) (q : Int) : Act Unit :=
  andThen (branchBytes q) fun b =>
  branchTo (cond == b.1) b.2.1 b.2.2

end Sys2Proof.Machine
end

