-- ==== Sys2Proof/Machine/Operands.lean ====
section
/-! DEFINITION. Operand resolution and the arity check: spec/40_decode_dispatch.md R104, R105, R112.
The operand forms are the operand types and nothing more (R112): a constant, or a variable. -/

namespace Sys2Proof.Machine

/-- Resolve((t, v)) (R105). -/
def resolve : Operand → Act Word
  | .large w => answer w
  | .small b => answer (byteWord b)
  | .var v => readVar (byteWord v)
  | .omitted => raise .decodeError

/-- "vals <- [Resolve(o) for o in inst.operands]", left to right (R105). -/
def resolveAll : List Operand → Act (List Word)
  | [] => answer []
  | o :: os =>
    andThen (resolve o) fun x =>
    andThen (resolveAll os) fun xs =>
    answer (x :: xs)

/-- CheckArity and resolution for a handler that takes exactly one operand: "This happens before any
operand is resolved" (R104, spec/30_encoding.md R85). -/
def operand1 (inst : Inst) : Act Word :=
  match inst.operands with
  | [a] => resolve a
  | os => raise (.invalidOperandCount os.length)

/-- CheckArity and resolution for a handler that takes exactly two operands (R104, R85). -/
def operands2 (inst : Inst) : Act (Word × Word) :=
  match inst.operands with
  | [a, b] =>
    andThen (resolve a) fun x =>
    andThen (resolve b) fun y =>
    answer (x, y)
  | os => raise (.invalidOperandCount os.length)

/-- CheckArity and resolution for `call`, which takes 1 to 4 operands: the routine and the arguments
(R104, R85). -/
def operandsCall (inst : Inst) : Act (Word × List Word) :=
  match inst.operands with
  | [] => raise (.invalidOperandCount 0)
  | r :: args =>
    if args.length ≤ 3 then
      andThen (resolve r) fun x =>
      andThen (resolveAll args) fun xs =>
      answer (x, xs)
    else raise (.invalidOperandCount (args.length + 1))

end Sys2Proof.Machine
end

