-- ==== Sys2Proof/Machine/Frames.lean ====
section
/-! DEFINITION. Calls, returns and the explicit halt: spec/43_frames_calls.md R200–R210. -/

namespace Sys2Proof.Machine

/-- The byte address of a packed address (spec/20_memory.md R57). -/
def unpack (p : Word) : Int := 2 * (p.toNat : Int)

/-- "if L > 15: raise InvalidLocalCount(L)" (R201). -/
def checkLocalCount (count : Byte) : Act Unit :=
  if 15 < count.toNat then raise (.invalidLocalCount count) else answer ()

/-- The 15 local slots of a new frame: slot i holds the i-th argument if there is one, else the i-th
default, for i up to the number of defaults, and is unset above it (R201, R203). -/
def bindLocals (defaults args : List Word) : Vector (Option Word) 15 :=
  Vector.ofFn fun i => defaults[i.val]?.map fun d => args.getD i.val d

/-- The call of a routine that is not at packed address 0 (R201): header, checks, defaults, and the new
frame on top of the caller, whose pc rests on its store byte. -/
def enterRoutine (r : Word) (args : List Word) (stop : Int) : Act Unit :=
  andThen (memByte (unpack r)) fun count =>
  andThen (checkLocalCount count) fun _ =>
  andThen checkDepth fun _ =>
  andThen (memWords count.toNat (unpack r + 1)) fun defaults =>
  andThen (setPc stop) fun _ =>
  pushFrame { pc := unpack r + 1 + 2 * count.toNat, locals := bindLocals defaults args, stack := [] }

/-- "call to nothing" (R202): 0 is stored at once and no frame is pushed. -/
def callNothing (stop : Int) : Act Unit :=
  andThen (storeResult 0 stop) fun q =>
  setPc q

/-- `call` (R201, R202). -/
def execCall (ops : List Operand) (s : State) : Host.Outcome State Fault Refusal :=
  runHandler (.call ops) (fun inst =>
    andThen (operandsCall inst) fun v =>
    if v.1 = 0 then callNothing inst.stop else enterRoutine v.1 v.2 inst.stop) s

/-- `ret` (R207): the operand is resolved in the callee's frame, before it is popped. -/
def execRet (op : Operand) (s : State) : Host.Outcome State Fault Refusal :=
  runHandler (.ret op) (fun inst =>
    andThen (operand1 inst) fun x =>
    returnWith x) s

/-- `rtrue` (R205). -/
def execRtrue (s : State) : Host.Outcome State Fault Refusal := runHandler .rtrue (fun _ => returnWith 1) s

/-- `rfalse` (R206). -/
def execRfalse (s : State) : Host.Outcome State Fault Refusal := runHandler .rfalse (fun _ => returnWith 0) s

/-- `quit` (R209, R267): the normal halt; the pc stays at the instruction's start. -/
def execQuit (s : State) : Host.Outcome State Fault Refusal :=
  runHandler .quit (fun inst => update (·.haltNormally inst.start)) s

end Sys2Proof.Machine
end

