-- ==== Sys2Proof/Machine/ObjectPort.lean ====
section
/-! DEFINITION. The ObjectTable port: spec/42_objects.md R170–R172. Objects are numbered 1..N and
object 0 is the inert sentinel (R171). -/

namespace Sys2Proof.Machine

/-- What reads of object 0 return: "parent, sibling and child 0, every attribute false, name """ (R171). -/
def sentinel : GameObject where
  parent := 0
  sibling := 0
  child := 0
  attrs := Vector.replicate 32 false
  name := []

/-- The record a read of object o sees: the sentinel for 0, none for o > N (R171). -/
def objectAt (os : List GameObject) (o : Word) : Option GameObject :=
  if o = 0 then some sentinel else os[o.toNat - 1]?

/-- The records with object o's changed; object 0 has no record. -/
def modifyObject (os : List GameObject) (o : Word) (f : GameObject → GameObject) : List GameObject :=
  if o = 0 then os else os.modify (o.toNat - 1) f

/-- Obj.insert(o, d) (R170): "o.parent <- d; o.sibling <- d.child; d.child <- o", one after another. -/
def insertRecord (os : List GameObject) (o d : Word) : List GameObject :=
  let os1 := modifyObject os o fun g => { g with parent := d }
  let c := ((objectAt os1 d).getD sentinel).child
  let os2 := modifyObject os1 o fun g => { g with sibling := c }
  modifyObject os2 d fun g => { g with child := o }

/-- A read of object o through the port: InvalidObject for o > N (R171). -/
def objRead (o : Word) : Act GameObject := fun s =>
  match objectAt s.objs o with
  | some g => .ok g s
  | none => .error (.invalidObject o) s

/-- The check before a write of object o: "if o = 0 or o > N: raise InvalidObject(o)" (R178). -/
def objCheckWrite (o : Word) : Act Unit := fun s =>
  if o = 0 ∨ s.objs.length < o.toNat then .error (.invalidObject o) s else .ok () s

/-- "if a >= 32: raise InvalidAttribute(a)" (R177). -/
def attrCheck (a : Word) : Act Unit := fun s =>
  if 32 ≤ a.toNat then .error (.invalidAttribute a) s else .ok () s

/-- Obj.attr of a record (R170): flag a, for a < 32. -/
def GameObject.attr (g : GameObject) (a : Word) : Bool := g.attrs[a.toNat]?.getD false

/-- The record with flag a set to x, for a < 32. -/
def GameObject.withAttr (g : GameObject) (a : Word) (x : Bool) : GameObject :=
  { g with attrs := g.attrs.setIfInBounds a.toNat x }

/-- Obj.setAttr(o, a, x) (R170). -/
def objSetAttr (o a : Word) (x : Bool) : Act Unit :=
  update fun s => s.withObjs (modifyObject s.objs o (·.withAttr a x))

/-- Obj.insert(o, d) (R170). -/
def objInsert (o d : Word) : Act Unit := update fun s => s.withObjs (insertRecord s.objs o d)

/-- The 32 flags of an object's 4 attribute bytes, by attribute number: attribute 0 is bit 7 of the
first byte and attribute 31 is bit 0 of the fourth (R172). It is what the external ObjectTable's load
makes of them; no instruction uses it. -/
def expandAttrs (b0 b1 b2 b3 : Byte) : Vector Bool 32 :=
  Vector.ofFn fun a => (b0 ++ b1 ++ b2 ++ b3 : BitVec 32).getMsbD a.val

end Sys2Proof.Machine
end

