-- ==== Sys2Proof/Machine/Objects.lean ====
section
/-! DEFINITION. The object instructions: spec/42_objects.md R173–R180. -/

namespace Sys2Proof.Machine

/-- A handler that stores a link of its object and branches on whether it is non-zero, the store
first (R109, R173, R174). -/
def storeLinkAndBranch (link : GameObject → Word) (inst : Inst) : Act Unit :=
  andThen (operand1 inst) fun o =>
  andThen (objRead o) fun g =>
  andThen (storeResult (link g) inst.stop) fun q =>
  branch (link g != 0) q

/-- A handler that sets an attribute flag to x: the object check first, then the attribute check
(R178, R179; spec/90_conflicts.md C7). -/
def writeAttr (x : Bool) (inst : Inst) : Act Unit :=
  andThen (operands2 inst) fun v =>
  andThen (objCheckWrite v.1) fun _ =>
  andThen (attrCheck v.2) fun _ =>
  andThen (objSetAttr v.1 v.2 x) fun _ =>
  setPc inst.stop

/-- `get_sibling` (R173). -/
def execGetSibling (op : Operand) (s : State) : Host.Outcome State Fault Refusal :=
  runHandler (.getSibling op) (storeLinkAndBranch (·.sibling)) s

/-- `get_child` (R174). -/
def execGetChild (op : Operand) (s : State) : Host.Outcome State Fault Refusal :=
  runHandler (.getChild op) (storeLinkAndBranch (·.child)) s

/-- `get_parent` (R175). -/
def execGetParent (op : Operand) (s : State) : Host.Outcome State Fault Refusal :=
  runHandler (.getParent op) (fun inst =>
    andThen (operand1 inst) fun o =>
    andThen (objRead o) fun g =>
    andThen (storeResult g.parent inst.stop) fun q =>
    setPc q) s

/-- `jin` (R176): the candidate parent is not checked. -/
def execJin (form : Form2OP) (ops : List Operand) (s : State) : Host.Outcome State Fault Refusal :=
  runHandler (.jin form ops) (fun inst =>
    andThen (operands2 inst) fun v =>
    andThen (objRead v.1) fun g =>
    branch (g.parent == v.2) inst.stop) s

/-- `test_attr` (R177): the object check comes before the attribute check. -/
def execTestAttr (form : Form2OP) (ops : List Operand) (s : State) : Host.Outcome State Fault Refusal :=
  runHandler (.testAttr form ops) (fun inst =>
    andThen (operands2 inst) fun v =>
    andThen (objRead v.1) fun g =>
    andThen (attrCheck v.2) fun _ =>
    branch (g.attr v.2) inst.stop) s

/-- `set_attr` (R178). -/
def execSetAttr (form : Form2OP) (ops : List Operand) (s : State) : Host.Outcome State Fault Refusal :=
  runHandler (.setAttr form ops) (writeAttr true) s

/-- `clear_attr` (R179). -/
def execClearAttr (form : Form2OP) (ops : List Operand) (s : State) : Host.Outcome State Fault Refusal :=
  runHandler (.clearAttr form ops) (writeAttr false) s

/-- `insert_obj` (R180): the insert half only. -/
def execInsertObj (form : Form2OP) (ops : List Operand) (s : State) : Host.Outcome State Fault Refusal :=
  runHandler (.insertObj form ops) (fun inst =>
    andThen (operands2 inst) fun v =>
    andThen (objCheckWrite v.1) fun _ =>
    andThen (objCheckWrite v.2) fun _ =>
    andThen (objInsert v.1 v.2) fun _ =>
    setPc inst.stop) s

end Sys2Proof.Machine
end

