-- ==== Sys2Proof/Machine/Text.lean ====
section
/-! DEFINITION. The text decompressor: spec/41_text.md R130–R141, and the decimal form of R146. -/

namespace Sys2Proof.Machine

/-- The three codes of a packed word, bits 14:10, 9:5 and 4:0 in that order (R131). -/
def wordCodes (w : Word) : List Code := [w.extractLsb' 10 5, w.extractLsb' 5 5, w.extractLsb' 0 5]

/-- Codes(t) (R130), reading at most n words: the codes and the address after the last word, or the
address of the read that is out of bounds. The bound is never what stops it when n is over half the
image's size; `Memory.codes` gives it the image's size. -/
def codesFuel (m : Memory) : Nat → Int → Except Int (List Code × Int)
  | 0, p => .error p
  | n + 1, p =>
    match m.readWord p with
    | none => .error p
    | some w =>
      if w.getLsbD 15 then .ok (wordCodes w, p + 2)
      else (codesFuel m n (p + 2)).map fun r => (wordCodes w ++ r.1, r.2)

/-- Codes(t) (R130). -/
def Memory.codes (m : Memory) (t : Int) : Except Int (List Code × Int) := codesFuel m (m.size + 1) t

/-- The alphabet strings of R133, 32 entries each; none is a control entry. -/
def alphabetTable : Alphabet → List (Option Char)
  | .a0 => some ' ' :: (List.replicate 5 none ++ "abcdefghijklmnopqrstuvwxyz".toList.map some)
  | .a1 => some ' ' :: (List.replicate 5 none ++ "ABCDEFGHIJKLMNOPQRSTUVWXYZ".toList.map some)
  | .a2 => some ' ' :: (List.replicate 7 none ++ "0123456789.,!?_#'\"/\\-:()".toList.map some)

/-- Map[alph][c] (R136) as text. The only control entry that reaches the lookup is A2 code 6, which
emits CTRL_GLYPH (R139). -/
def mapGlyph (alph : Alphabet) (c : Code) : Text :=
  match (alphabetTable alph).getD c.toNat none with
  | some ch => [ch]
  | none => Config.ctrlGlyph

/-- ZSCII_OUT (R140): printable ASCII for 32–126, the open parameter elsewhere. -/
def zsciiOut (z : Word) : Text :=
  if 32 ≤ z.toNat ∧ z.toNat ≤ 126 then [Char.ofNat z.toNat] else Config.zsciiOther z

/-- AbbrevLookup(tbl, k) (R137): "an out-of-range index return[s] an empty string". -/
def abbrevLookup (tbl : List Text) (k : Nat) : Text := tbl.getD k []

/-- The decompressor's state inside one decode (R134). -/
structure TextMode where
  alph : Alphabet
  pending : Bool
  offset : Nat
deriving DecidableEq, Repr

/-- The state at the start of every decode: "initially A0; flag pending, initially false; offset ...
initially 0" (R134). -/
def textStart : TextMode := ⟨.a0, false, 0⟩

/-- One turn of R136's loop: what a code emits, and the state after it. -/
def textStep (tbl : List Text) (m : TextMode) (c : Code) : Text × TextMode :=
  if m.pending then (abbrevLookup tbl (m.offset + c.toNat), { m with alph := .a0, pending := false })
  else if c = 0 then ([' '], { m with alph := .a0 })
  else if c = 1 ∨ c = 2 ∨ c = 3 then ([], ⟨.a2, true, 32 * (c.toNat - 1)⟩)
  else if c = 4 then ([], { m with alph := .a1 })
  else if c = 5 then ([], { m with alph := .a2 })
  else if c = 7 ∧ m.alph = .a2 then (['\n'], { m with alph := .a0 })
  else if c = 6 ∧ m.alph = .a2 then (Config.ctrlGlyph, { m with alph := .a0 })
  else (mapGlyph m.alph c, { m with alph := .a0 })

/-- R136's loop over the codes left; at the end of the codes "nothing more is emitted and the state is
dropped" (R138). -/
def decodeLoop (tbl : List Text) : TextMode → List Code → Text
  | _, [] => []
  | m, c :: cs => (textStep tbl m c).1 ++ decodeLoop tbl (textStep tbl m c).2 cs

/-- DecodeCodes(codes, tbl) (R136), with the stream-start escape of R135. -/
def decodeCodes (tbl : List Text) (codes : List Code) : Text :=
  match codes with
  | c0 :: c1 :: hi :: lo :: c4 :: rest =>
    if c0 = 5 ∧ c1 = 6 then
      zsciiOut ((hi ++ lo : BitVec 10).setWidth 16) ++ decodeLoop tbl textStart (c4 :: rest)
    else decodeLoop tbl textStart (c0 :: c1 :: hi :: lo :: c4 :: rest)
  | short => decodeLoop tbl textStart short

/-- DecodeText(t) (R141) in a handler: the text and the address after the string's last word. -/
def decodeText (t : Int) : Act (Text × Int) := fun s =>
  match s.mem.codes t with
  | .ok r => .ok (decodeCodes s.abbrevs.toList r.1, r.2) s
  | .error a => .error (.outOfBounds a) s

/-- The decimal digits of a number, of which n + 1 is a bound on how many there are. -/
def digitsFuel : Nat → Nat → Text
  | 0, k => [Nat.digitChar (k % 10)]
  | n + 1, k => if k < 10 then [Nat.digitChar k] else digitsFuel n (k / 10) ++ [Nat.digitChar (k % 10)]

/-- Decimal (R146): "-" before a negative number, no leading zeros, "0" for zero. -/
def decimal (z : Int) : Text :=
  if z < 0 then '-' :: digitsFuel z.natAbs z.natAbs else digitsFuel z.natAbs z.natAbs

/-- s16 (spec/00_scope.md R6). -/
def s16 (w : Word) : Int := if w.getLsbD 15 then (w.toNat : Int) - 0x10000 else w.toNat

end Sys2Proof.Machine
end

