-- ==== Sys2Proof/Machine/Print.lean ====
section
/-! DEFINITION. The output instructions: spec/41_text.md R144–R148. -/

namespace Sys2Proof.Machine

/-- `print` (R144): the text lies inline at the end address, and the pc goes to after its last word. -/
def execPrint (s : State) : Host.Outcome State Fault Refusal :=
  runHandler .print (fun inst =>
    andThen (decodeText inst.stop) fun t =>
    andThen (emit (.print t.1)) fun _ =>
    setPc t.2) s

/-- `print_obj` (R145). -/
def execPrintObj (op : Operand) (s : State) : Host.Outcome State Fault Refusal :=
  runHandler (.printObj op) (fun inst =>
    andThen (operand1 inst) fun o =>
    andThen (objRead o) fun g =>
    andThen (emit (.print g.name)) fun _ =>
    setPc inst.stop) s

/-- `print_num` (R146): the signed value in decimal. -/
def execPrintNum (ops : List Operand) (s : State) : Host.Outcome State Fault Refusal :=
  runHandler (.printNum ops) (fun inst =>
    andThen (operand1 inst) fun v =>
    andThen (emit (.print (decimal (s16 v)))) fun _ =>
    setPc inst.stop) s

/-- `print_char` (R147). -/
def execPrintChar (ops : List Operand) (s : State) : Host.Outcome State Fault Refusal :=
  runHandler (.printChar ops) (fun inst =>
    andThen (operand1 inst) fun v =>
    andThen (emit (.print (zsciiOut v))) fun _ =>
    setPc inst.stop) s

/-- `new_line` (R148): a request to the sink, not text. -/
def execNewLine (s : State) : Host.Outcome State Fault Refusal :=
  runHandler .newLine (fun inst =>
    andThen (emit .newLine) fun _ =>
    setPc inst.stop) s

end Sys2Proof.Machine
end

