-- ==== Sys2Proof/Machine/Unimplemented.lean ====
section
/-! DEFINITION. The meanings of the opcode bytes the block has no handler for: the unimplemented keys
of spec/30_encoding.md R84 and the extended form of R76. Each takes its fault (R103, R101) before any
operand is resolved: the run is halted in a next state. -/

namespace Sys2Proof.Machine

/-- Dispatch on "A key not in H raises UnimplementedOpcode ... before any operand is resolved and
before any state is changed" (spec/40_decode_dispatch.md R103). -/
def raiseUnimplemented (i : Instr) (s : State) : Host.Outcome State Fault Refusal :=
  runHandler i (fun _ => raise .unimplementedOpcode) s

/-- The extended form raises DecodeError (R76, R101). -/
def execExtendedForm (s : State) : Host.Outcome State Fault Refusal :=
  runHandler .extendedForm (fun _ => raise .decodeError) s

/-- 2OP:0 (R84). -/
def execUnimpl2OP_0 (form : Form2OP) (ops : List Operand) (s : State) : Host.Outcome State Fault Refusal :=
  raiseUnimplemented (.unimpl2OP_0 form ops) s

/-- 2OP:1 (R84). -/
def execUnimpl2OP_1 (form : Form2OP) (ops : List Operand) (s : State) : Host.Outcome State Fault Refusal :=
  raiseUnimplemented (.unimpl2OP_1 form ops) s

/-- 2OP:2 (R84). -/
def execUnimpl2OP_2 (form : Form2OP) (ops : List Operand) (s : State) : Host.Outcome State Fault Refusal :=
  raiseUnimplemented (.unimpl2OP_2 form ops) s

/-- 2OP:3 (R84). -/
def execUnimpl2OP_3 (form : Form2OP) (ops : List Operand) (s : State) : Host.Outcome State Fault Refusal :=
  raiseUnimplemented (.unimpl2OP_3 form ops) s

/-- 2OP:4 (R84). -/
def execUnimpl2OP_4 (form : Form2OP) (ops : List Operand) (s : State) : Host.Outcome State Fault Refusal :=
  raiseUnimplemented (.unimpl2OP_4 form ops) s

/-- 2OP:5 (R84). -/
def execUnimpl2OP_5 (form : Form2OP) (ops : List Operand) (s : State) : Host.Outcome State Fault Refusal :=
  raiseUnimplemented (.unimpl2OP_5 form ops) s

/-- 2OP:7 (R84). -/
def execUnimpl2OP_7 (form : Form2OP) (ops : List Operand) (s : State) : Host.Outcome State Fault Refusal :=
  raiseUnimplemented (.unimpl2OP_7 form ops) s

/-- 2OP:8 (R84). -/
def execUnimpl2OP_8 (form : Form2OP) (ops : List Operand) (s : State) : Host.Outcome State Fault Refusal :=
  raiseUnimplemented (.unimpl2OP_8 form ops) s

/-- 2OP:9 (R84). -/
def execUnimpl2OP_9 (form : Form2OP) (ops : List Operand) (s : State) : Host.Outcome State Fault Refusal :=
  raiseUnimplemented (.unimpl2OP_9 form ops) s

/-- 2OP:15 (R84). -/
def execUnimpl2OP_15 (form : Form2OP) (ops : List Operand) (s : State) : Host.Outcome State Fault Refusal :=
  raiseUnimplemented (.unimpl2OP_15 form ops) s

/-- 2OP:16 (R84). -/
def execUnimpl2OP_16 (form : Form2OP) (ops : List Operand) (s : State) : Host.Outcome State Fault Refusal :=
  raiseUnimplemented (.unimpl2OP_16 form ops) s

/-- 2OP:17 (R84). -/
def execUnimpl2OP_17 (form : Form2OP) (ops : List Operand) (s : State) : Host.Outcome State Fault Refusal :=
  raiseUnimplemented (.unimpl2OP_17 form ops) s

/-- 2OP:18 (R84). -/
def execUnimpl2OP_18 (form : Form2OP) (ops : List Operand) (s : State) : Host.Outcome State Fault Refusal :=
  raiseUnimplemented (.unimpl2OP_18 form ops) s

/-- 2OP:19 (R84). -/
def execUnimpl2OP_19 (form : Form2OP) (ops : List Operand) (s : State) : Host.Outcome State Fault Refusal :=
  raiseUnimplemented (.unimpl2OP_19 form ops) s

/-- 2OP:22 (R84). -/
def execUnimpl2OP_22 (form : Form2OP) (ops : List Operand) (s : State) : Host.Outcome State Fault Refusal :=
  raiseUnimplemented (.unimpl2OP_22 form ops) s

/-- 2OP:25 (R84). -/
def execUnimpl2OP_25 (form : Form2OP) (ops : List Operand) (s : State) : Host.Outcome State Fault Refusal :=
  raiseUnimplemented (.unimpl2OP_25 form ops) s

/-- 2OP:26 (R84). -/
def execUnimpl2OP_26 (form : Form2OP) (ops : List Operand) (s : State) : Host.Outcome State Fault Refusal :=
  raiseUnimplemented (.unimpl2OP_26 form ops) s

/-- 2OP:27 (R84). -/
def execUnimpl2OP_27 (form : Form2OP) (ops : List Operand) (s : State) : Host.Outcome State Fault Refusal :=
  raiseUnimplemented (.unimpl2OP_27 form ops) s

/-- 2OP:28 (R84). -/
def execUnimpl2OP_28 (form : Form2OP) (ops : List Operand) (s : State) : Host.Outcome State Fault Refusal :=
  raiseUnimplemented (.unimpl2OP_28 form ops) s

/-- 2OP:29 (R84). -/
def execUnimpl2OP_29 (form : Form2OP) (ops : List Operand) (s : State) : Host.Outcome State Fault Refusal :=
  raiseUnimplemented (.unimpl2OP_29 form ops) s

/-- 2OP:30 (R84). -/
def execUnimpl2OP_30 (form : Form2OP) (ops : List Operand) (s : State) : Host.Outcome State Fault Refusal :=
  raiseUnimplemented (.unimpl2OP_30 form ops) s

/-- 2OP:31 (R84). -/
def execUnimpl2OP_31 (form : Form2OP) (ops : List Operand) (s : State) : Host.Outcome State Fault Refusal :=
  raiseUnimplemented (.unimpl2OP_31 form ops) s

/-- 1OP:0 (R84). -/
def execUnimpl1OP_0 (op : Operand) (s : State) : Host.Outcome State Fault Refusal :=
  raiseUnimplemented (.unimpl1OP_0 op) s

/-- 1OP:4 (R84). -/
def execUnimpl1OP_4 (op : Operand) (s : State) : Host.Outcome State Fault Refusal :=
  raiseUnimplemented (.unimpl1OP_4 op) s

/-- 1OP:7 (R84). -/
def execUnimpl1OP_7 (op : Operand) (s : State) : Host.Outcome State Fault Refusal :=
  raiseUnimplemented (.unimpl1OP_7 op) s

/-- 1OP:8 (R84). -/
def execUnimpl1OP_8 (op : Operand) (s : State) : Host.Outcome State Fault Refusal :=
  raiseUnimplemented (.unimpl1OP_8 op) s

/-- 1OP:9 (R84). -/
def execUnimpl1OP_9 (op : Operand) (s : State) : Host.Outcome State Fault Refusal :=
  raiseUnimplemented (.unimpl1OP_9 op) s

/-- 1OP:12 (R84). -/
def execUnimpl1OP_12 (op : Operand) (s : State) : Host.Outcome State Fault Refusal :=
  raiseUnimplemented (.unimpl1OP_12 op) s

/-- 1OP:13 (R84). -/
def execUnimpl1OP_13 (op : Operand) (s : State) : Host.Outcome State Fault Refusal :=
  raiseUnimplemented (.unimpl1OP_13 op) s

/-- 1OP:14 (R84). -/
def execUnimpl1OP_14 (op : Operand) (s : State) : Host.Outcome State Fault Refusal :=
  raiseUnimplemented (.unimpl1OP_14 op) s

/-- 1OP:15 (R84). -/
def execUnimpl1OP_15 (op : Operand) (s : State) : Host.Outcome State Fault Refusal :=
  raiseUnimplemented (.unimpl1OP_15 op) s

/-- 0OP:3 (R84). -/
def execUnimpl0OP_3 (s : State) : Host.Outcome State Fault Refusal :=
  raiseUnimplemented .unimpl0OP_3 s

/-- 0OP:4 (R84). -/
def execUnimpl0OP_4 (s : State) : Host.Outcome State Fault Refusal :=
  raiseUnimplemented .unimpl0OP_4 s

/-- 0OP:5 (R84). -/
def execUnimpl0OP_5 (s : State) : Host.Outcome State Fault Refusal :=
  raiseUnimplemented .unimpl0OP_5 s

/-- 0OP:6 (R84). -/
def execUnimpl0OP_6 (s : State) : Host.Outcome State Fault Refusal :=
  raiseUnimplemented .unimpl0OP_6 s

/-- 0OP:7 (R84). -/
def execUnimpl0OP_7 (s : State) : Host.Outcome State Fault Refusal :=
  raiseUnimplemented .unimpl0OP_7 s

/-- 0OP:8 (R84). -/
def execUnimpl0OP_8 (s : State) : Host.Outcome State Fault Refusal :=
  raiseUnimplemented .unimpl0OP_8 s

/-- 0OP:9 (R84). -/
def execUnimpl0OP_9 (s : State) : Host.Outcome State Fault Refusal :=
  raiseUnimplemented .unimpl0OP_9 s

/-- 0OP:12 (R84). -/
def execUnimpl0OP_12 (s : State) : Host.Outcome State Fault Refusal :=
  raiseUnimplemented .unimpl0OP_12 s

/-- 0OP:13 (R84). -/
def execUnimpl0OP_13 (s : State) : Host.Outcome State Fault Refusal :=
  raiseUnimplemented .unimpl0OP_13 s

/-- 0OP:15 (R84). -/
def execUnimpl0OP_15 (s : State) : Host.Outcome State Fault Refusal :=
  raiseUnimplemented .unimpl0OP_15 s

/-- VAR:1 (R84). -/
def execUnimplVAR_1 (ops : List Operand) (s : State) : Host.Outcome State Fault Refusal :=
  raiseUnimplemented (.unimplVAR_1 ops) s

/-- VAR:2 (R84). -/
def execUnimplVAR_2 (ops : List Operand) (s : State) : Host.Outcome State Fault Refusal :=
  raiseUnimplemented (.unimplVAR_2 ops) s

/-- VAR:3 (R84). -/
def execUnimplVAR_3 (ops : List Operand) (s : State) : Host.Outcome State Fault Refusal :=
  raiseUnimplemented (.unimplVAR_3 ops) s

/-- VAR:4 `sread` (R84). -/
def execUnimplVAR_4 (ops : List Operand) (s : State) : Host.Outcome State Fault Refusal :=
  raiseUnimplemented (.unimplVAR_4 ops) s

/-- VAR:7 (R84). -/
def execUnimplVAR_7 (ops : List Operand) (s : State) : Host.Outcome State Fault Refusal :=
  raiseUnimplemented (.unimplVAR_7 ops) s

/-- VAR:8 (R84). -/
def execUnimplVAR_8 (ops : List Operand) (s : State) : Host.Outcome State Fault Refusal :=
  raiseUnimplemented (.unimplVAR_8 ops) s

/-- VAR:9 (R84). -/
def execUnimplVAR_9 (ops : List Operand) (s : State) : Host.Outcome State Fault Refusal :=
  raiseUnimplemented (.unimplVAR_9 ops) s

/-- VAR:10 (R84). -/
def execUnimplVAR_10 (ops : List Operand) (s : State) : Host.Outcome State Fault Refusal :=
  raiseUnimplemented (.unimplVAR_10 ops) s

/-- VAR:11 (R84). -/
def execUnimplVAR_11 (ops : List Operand) (s : State) : Host.Outcome State Fault Refusal :=
  raiseUnimplemented (.unimplVAR_11 ops) s

/-- VAR:12 (R84). -/
def execUnimplVAR_12 (ops : List Operand) (s : State) : Host.Outcome State Fault Refusal :=
  raiseUnimplemented (.unimplVAR_12 ops) s

/-- VAR:13 (R84). -/
def execUnimplVAR_13 (ops : List Operand) (s : State) : Host.Outcome State Fault Refusal :=
  raiseUnimplemented (.unimplVAR_13 ops) s

/-- VAR:14 (R84). -/
def execUnimplVAR_14 (ops : List Operand) (s : State) : Host.Outcome State Fault Refusal :=
  raiseUnimplemented (.unimplVAR_14 ops) s

/-- VAR:15 (R84). -/
def execUnimplVAR_15 (ops : List Operand) (s : State) : Host.Outcome State Fault Refusal :=
  raiseUnimplemented (.unimplVAR_15 ops) s

/-- VAR:16 (R84). -/
def execUnimplVAR_16 (ops : List Operand) (s : State) : Host.Outcome State Fault Refusal :=
  raiseUnimplemented (.unimplVAR_16 ops) s

/-- VAR:17 (R84). -/
def execUnimplVAR_17 (ops : List Operand) (s : State) : Host.Outcome State Fault Refusal :=
  raiseUnimplemented (.unimplVAR_17 ops) s

/-- VAR:18 (R84). -/
def execUnimplVAR_18 (ops : List Operand) (s : State) : Host.Outcome State Fault Refusal :=
  raiseUnimplemented (.unimplVAR_18 ops) s

/-- VAR:19 (R84). -/
def execUnimplVAR_19 (ops : List Operand) (s : State) : Host.Outcome State Fault Refusal :=
  raiseUnimplemented (.unimplVAR_19 ops) s

/-- VAR:20 (R84). -/
def execUnimplVAR_20 (ops : List Operand) (s : State) : Host.Outcome State Fault Refusal :=
  raiseUnimplemented (.unimplVAR_20 ops) s

/-- VAR:21 (R84). -/
def execUnimplVAR_21 (ops : List Operand) (s : State) : Host.Outcome State Fault Refusal :=
  raiseUnimplemented (.unimplVAR_21 ops) s

/-- VAR:22 (R84). -/
def execUnimplVAR_22 (ops : List Operand) (s : State) : Host.Outcome State Fault Refusal :=
  raiseUnimplemented (.unimplVAR_22 ops) s

/-- VAR:23 (R84). -/
def execUnimplVAR_23 (ops : List Operand) (s : State) : Host.Outcome State Fault Refusal :=
  raiseUnimplemented (.unimplVAR_23 ops) s

/-- VAR:24 (R84). -/
def execUnimplVAR_24 (ops : List Operand) (s : State) : Host.Outcome State Fault Refusal :=
  raiseUnimplemented (.unimplVAR_24 ops) s

/-- VAR:25 (R84). -/
def execUnimplVAR_25 (ops : List Operand) (s : State) : Host.Outcome State Fault Refusal :=
  raiseUnimplemented (.unimplVAR_25 ops) s

/-- VAR:26 (R84). -/
def execUnimplVAR_26 (ops : List Operand) (s : State) : Host.Outcome State Fault Refusal :=
  raiseUnimplemented (.unimplVAR_26 ops) s

/-- VAR:27 (R84). -/
def execUnimplVAR_27 (ops : List Operand) (s : State) : Host.Outcome State Fault Refusal :=
  raiseUnimplemented (.unimplVAR_27 ops) s

/-- VAR:28 (R84). -/
def execUnimplVAR_28 (ops : List Operand) (s : State) : Host.Outcome State Fault Refusal :=
  raiseUnimplemented (.unimplVAR_28 ops) s

/-- VAR:29 (R84). -/
def execUnimplVAR_29 (ops : List Operand) (s : State) : Host.Outcome State Fault Refusal :=
  raiseUnimplemented (.unimplVAR_29 ops) s

/-- VAR:30 (R84). -/
def execUnimplVAR_30 (ops : List Operand) (s : State) : Host.Outcome State Fault Refusal :=
  raiseUnimplemented (.unimplVAR_30 ops) s

/-- VAR:31 (R84). -/
def execUnimplVAR_31 (ops : List Operand) (s : State) : Host.Outcome State Fault Refusal :=
  raiseUnimplemented (.unimplVAR_31 ops) s

end Sys2Proof.Machine
end

