-- ==== Sys2Proof/Machine/Variables.lean ====
section
/-! DEFINITION. The variable and arithmetic instructions: spec/44_variables_arith.md R230–R238. The
first operand of store, inc and dec is resolved like any other, and the word it gives is the variable
number (R230). -/

namespace Sys2Proof.Machine

/-- A handler that stores a word computed from its two operands (R109). -/
def storeBinary (f : Word → Word → Word) (inst : Inst) : Act Unit :=
  andThen (operands2 inst) fun v =>
  andThen (storeResult (f v.1 v.2) inst.stop) fun q =>
  setPc q

/-- "if b = 0: raise DivideByZero", before the store (R236, R237). -/
def checkDivisor (b : Word) : Act Unit := if b = 0 then raise .divideByZero else answer ()

/-- A handler that divides its two operands, unsigned (R236, R237). -/
def storeQuotient (f : Word → Word → Word) (inst : Inst) : Act Unit :=
  andThen (operands2 inst) fun v =>
  andThen (checkDivisor v.2) fun _ =>
  andThen (storeResult (f v.1 v.2) inst.stop) fun q =>
  setPc q

/-- A handler that changes the variable its operand names (R232, R233). -/
def changeVariable (f : Word → Word) (inst : Inst) : Act Unit :=
  andThen (operand1 inst) fun v =>
  andThen (readVar v) fun x =>
  andThen (writeVar v (f x)) fun _ =>
  setPc inst.stop

/-- `store` (R231). -/
def execStore (form : Form2OP) (ops : List Operand) (s : State) : Host.Outcome State Fault Refusal :=
  runHandler (.store form ops) (fun inst =>
    andThen (operands2 inst) fun v =>
    andThen (writeVar v.1 v.2) fun _ =>
    setPc inst.stop) s

/-- `inc` (R232): wraps modulo 0x10000; the overflow log has no architectural effect (R274). -/
def execInc (op : Operand) (s : State) : Host.Outcome State Fault Refusal :=
  runHandler (.inc op) (changeVariable (· + 1)) s

/-- `dec` (R233). -/
def execDec (op : Operand) (s : State) : Host.Outcome State Fault Refusal :=
  runHandler (.dec op) (changeVariable (· - 1)) s

/-- `add` (R234). -/
def execAdd (form : Form2OP) (ops : List Operand) (s : State) : Host.Outcome State Fault Refusal :=
  runHandler (.add form ops) (storeBinary (· + ·)) s

/-- `sub` (R235). -/
def execSub (form : Form2OP) (ops : List Operand) (s : State) : Host.Outcome State Fault Refusal :=
  runHandler (.sub form ops) (storeBinary (· - ·)) s

/-- `div` (R236): the floor of the unsigned quotient. -/
def execDiv (form : Form2OP) (ops : List Operand) (s : State) : Host.Outcome State Fault Refusal :=
  runHandler (.div form ops) (storeQuotient BitVec.udiv) s

/-- `mod` (R237): the unsigned remainder. -/
def execMod (form : Form2OP) (ops : List Operand) (s : State) : Host.Outcome State Fault Refusal :=
  runHandler (.mod form ops) (storeQuotient BitVec.umod) s

end Sys2Proof.Machine
end

