-- ==== Sys2Proof/Machine/Dispatch.lean ====
section
/-! DEFINITION. exec: one arm for each constructor of Instr, each one call of its meaning
(spec/40_decode_dispatch.md R103, the dispatch). -/

namespace Sys2Proof.Machine

def exec (i : Instr) (s : State) : Host.Outcome State Fault Refusal :=
  match i with
  | .jin form ops => Sys2Proof.Machine.execJin form ops s
  | .testAttr form ops => Sys2Proof.Machine.execTestAttr form ops s
  | .setAttr form ops => Sys2Proof.Machine.execSetAttr form ops s
  | .clearAttr form ops => Sys2Proof.Machine.execClearAttr form ops s
  | .store form ops => Sys2Proof.Machine.execStore form ops s
  | .insertObj form ops => Sys2Proof.Machine.execInsertObj form ops s
  | .add form ops => Sys2Proof.Machine.execAdd form ops s
  | .sub form ops => Sys2Proof.Machine.execSub form ops s
  | .div form ops => Sys2Proof.Machine.execDiv form ops s
  | .mod form ops => Sys2Proof.Machine.execMod form ops s
  | .getSibling op => Sys2Proof.Machine.execGetSibling op s
  | .getChild op => Sys2Proof.Machine.execGetChild op s
  | .getParent op => Sys2Proof.Machine.execGetParent op s
  | .inc op => Sys2Proof.Machine.execInc op s
  | .dec op => Sys2Proof.Machine.execDec op s
  | .printObj op => Sys2Proof.Machine.execPrintObj op s
  | .ret op => Sys2Proof.Machine.execRet op s
  | .rtrue => Sys2Proof.Machine.execRtrue s
  | .rfalse => Sys2Proof.Machine.execRfalse s
  | .print => Sys2Proof.Machine.execPrint s
  | .quit => Sys2Proof.Machine.execQuit s
  | .newLine => Sys2Proof.Machine.execNewLine s
  | .call ops => Sys2Proof.Machine.execCall ops s
  | .printChar ops => Sys2Proof.Machine.execPrintChar ops s
  | .printNum ops => Sys2Proof.Machine.execPrintNum ops s
  | .extendedForm => Sys2Proof.Machine.execExtendedForm s
  | .unimpl2OP_0 form ops => Sys2Proof.Machine.execUnimpl2OP_0 form ops s
  | .unimpl2OP_1 form ops => Sys2Proof.Machine.execUnimpl2OP_1 form ops s
  | .unimpl2OP_2 form ops => Sys2Proof.Machine.execUnimpl2OP_2 form ops s
  | .unimpl2OP_3 form ops => Sys2Proof.Machine.execUnimpl2OP_3 form ops s
  | .unimpl2OP_4 form ops => Sys2Proof.Machine.execUnimpl2OP_4 form ops s
  | .unimpl2OP_5 form ops => Sys2Proof.Machine.execUnimpl2OP_5 form ops s
  | .unimpl2OP_7 form ops => Sys2Proof.Machine.execUnimpl2OP_7 form ops s
  | .unimpl2OP_8 form ops => Sys2Proof.Machine.execUnimpl2OP_8 form ops s
  | .unimpl2OP_9 form ops => Sys2Proof.Machine.execUnimpl2OP_9 form ops s
  | .unimpl2OP_15 form ops => Sys2Proof.Machine.execUnimpl2OP_15 form ops s
  | .unimpl2OP_16 form ops => Sys2Proof.Machine.execUnimpl2OP_16 form ops s
  | .unimpl2OP_17 form ops => Sys2Proof.Machine.execUnimpl2OP_17 form ops s
  | .unimpl2OP_18 form ops => Sys2Proof.Machine.execUnimpl2OP_18 form ops s
  | .unimpl2OP_19 form ops => Sys2Proof.Machine.execUnimpl2OP_19 form ops s
  | .unimpl2OP_22 form ops => Sys2Proof.Machine.execUnimpl2OP_22 form ops s
  | .unimpl2OP_25 form ops => Sys2Proof.Machine.execUnimpl2OP_25 form ops s
  | .unimpl2OP_26 form ops => Sys2Proof.Machine.execUnimpl2OP_26 form ops s
  | .unimpl2OP_27 form ops => Sys2Proof.Machine.execUnimpl2OP_27 form ops s
  | .unimpl2OP_28 form ops => Sys2Proof.Machine.execUnimpl2OP_28 form ops s
  | .unimpl2OP_29 form ops => Sys2Proof.Machine.execUnimpl2OP_29 form ops s
  | .unimpl2OP_30 form ops => Sys2Proof.Machine.execUnimpl2OP_30 form ops s
  | .unimpl2OP_31 form ops => Sys2Proof.Machine.execUnimpl2OP_31 form ops s
  | .unimpl1OP_0 op => Sys2Proof.Machine.execUnimpl1OP_0 op s
  | .unimpl1OP_4 op => Sys2Proof.Machine.execUnimpl1OP_4 op s
  | .unimpl1OP_7 op => Sys2Proof.Machine.execUnimpl1OP_7 op s
  | .unimpl1OP_8 op => Sys2Proof.Machine.execUnimpl1OP_8 op s
  | .unimpl1OP_9 op => Sys2Proof.Machine.execUnimpl1OP_9 op s
  | .unimpl1OP_12 op => Sys2Proof.Machine.execUnimpl1OP_12 op s
  | .unimpl1OP_13 op => Sys2Proof.Machine.execUnimpl1OP_13 op s
  | .unimpl1OP_14 op => Sys2Proof.Machine.execUnimpl1OP_14 op s
  | .unimpl1OP_15 op => Sys2Proof.Machine.execUnimpl1OP_15 op s
  | .unimpl0OP_3 => Sys2Proof.Machine.execUnimpl0OP_3 s
  | .unimpl0OP_4 => Sys2Proof.Machine.execUnimpl0OP_4 s
  | .unimpl0OP_5 => Sys2Proof.Machine.execUnimpl0OP_5 s
  | .unimpl0OP_6 => Sys2Proof.Machine.execUnimpl0OP_6 s
  | .unimpl0OP_7 => Sys2Proof.Machine.execUnimpl0OP_7 s
  | .unimpl0OP_8 => Sys2Proof.Machine.execUnimpl0OP_8 s
  | .unimpl0OP_9 => Sys2Proof.Machine.execUnimpl0OP_9 s
  | .unimpl0OP_12 => Sys2Proof.Machine.execUnimpl0OP_12 s
  | .unimpl0OP_13 => Sys2Proof.Machine.execUnimpl0OP_13 s
  | .unimpl0OP_15 => Sys2Proof.Machine.execUnimpl0OP_15 s
  | .unimplVAR_1 ops => Sys2Proof.Machine.execUnimplVAR_1 ops s
  | .unimplVAR_2 ops => Sys2Proof.Machine.execUnimplVAR_2 ops s
  | .unimplVAR_3 ops => Sys2Proof.Machine.execUnimplVAR_3 ops s
  | .unimplVAR_4 ops => Sys2Proof.Machine.execUnimplVAR_4 ops s
  | .unimplVAR_7 ops => Sys2Proof.Machine.execUnimplVAR_7 ops s
  | .unimplVAR_8 ops => Sys2Proof.Machine.execUnimplVAR_8 ops s
  | .unimplVAR_9 ops => Sys2Proof.Machine.execUnimplVAR_9 ops s
  | .unimplVAR_10 ops => Sys2Proof.Machine.execUnimplVAR_10 ops s
  | .unimplVAR_11 ops => Sys2Proof.Machine.execUnimplVAR_11 ops s
  | .unimplVAR_12 ops => Sys2Proof.Machine.execUnimplVAR_12 ops s
  | .unimplVAR_13 ops => Sys2Proof.Machine.execUnimplVAR_13 ops s
  | .unimplVAR_14 ops => Sys2Proof.Machine.execUnimplVAR_14 ops s
  | .unimplVAR_15 ops => Sys2Proof.Machine.execUnimplVAR_15 ops s
  | .unimplVAR_16 ops => Sys2Proof.Machine.execUnimplVAR_16 ops s
  | .unimplVAR_17 ops => Sys2Proof.Machine.execUnimplVAR_17 ops s
  | .unimplVAR_18 ops => Sys2Proof.Machine.execUnimplVAR_18 ops s
  | .unimplVAR_19 ops => Sys2Proof.Machine.execUnimplVAR_19 ops s
  | .unimplVAR_20 ops => Sys2Proof.Machine.execUnimplVAR_20 ops s
  | .unimplVAR_21 ops => Sys2Proof.Machine.execUnimplVAR_21 ops s
  | .unimplVAR_22 ops => Sys2Proof.Machine.execUnimplVAR_22 ops s
  | .unimplVAR_23 ops => Sys2Proof.Machine.execUnimplVAR_23 ops s
  | .unimplVAR_24 ops => Sys2Proof.Machine.execUnimplVAR_24 ops s
  | .unimplVAR_25 ops => Sys2Proof.Machine.execUnimplVAR_25 ops s
  | .unimplVAR_26 ops => Sys2Proof.Machine.execUnimplVAR_26 ops s
  | .unimplVAR_27 ops => Sys2Proof.Machine.execUnimplVAR_27 ops s
  | .unimplVAR_28 ops => Sys2Proof.Machine.execUnimplVAR_28 ops s
  | .unimplVAR_29 ops => Sys2Proof.Machine.execUnimplVAR_29 ops s
  | .unimplVAR_30 ops => Sys2Proof.Machine.execUnimplVAR_30 ops s
  | .unimplVAR_31 ops => Sys2Proof.Machine.execUnimplVAR_31 ops s

end Sys2Proof.Machine
end

