-- ==== Sys2Proof/Machine/Fetch.lean ====
section
/-! DEFINITION. Fetch and decode at the pc (spec/40_decode_dispatch.md R100, R101), and placing an
instruction where the next fetch reads. -/

namespace Sys2Proof.Machine

/-- The bytes of the image from an address on, at most n, up to the first address outside it. -/
def Memory.window (m : Memory) : Nat → Int → List Byte
  | 0, _ => []
  | n + 1, a =>
    match m.readByte a with
    | none => []
    | some b => b :: m.window n (a + 1)

/-- The bytes the decoder may read at the pc: no instruction is longer before its suffixes (R102). -/
def State.fetchBytes (s : State) : List Byte := s.mem.window maxInstrBytes s.cur.pc

/-- Decode(cur.pc), afresh from the image at every fetch (R111, spec/20_memory.md R63). -/
def State.fetch (s : State) : Except DecodeStop Instr := decode s.fetchBytes

/-- The fault of a fetch that reads past the image: OutOfBounds at the address the read begins at
(R101, R264), with DIAG_OPBYTE, DIAG_CLASS and DIAG_OPCODE from the opcode byte if it could be read
(R261, log entry 13). -/
def State.fetchFault (s : State) : DecodeStop → State
  | .truncated k =>
    s.takeFault (.outOfBounds (s.cur.pc + k)) s.cur.pc s.fetchBytes.head?
      (s.fetchBytes.head?.map opcodeClass) (s.fetchBytes.head?.bind opcodeNumber)

/-- The image with bytes placed at an address and on, grown if it ends before them. -/
def Memory.place (m : Memory) (a : Nat) : List Byte → Memory
  | [] => m
  | b :: bs => Memory.place ⟨max m.size (a + 1), setCell a b m.cells⟩ (a + 1) bs

/-- A running state whose next fetch reads the bytes: they are placed at the pc (at 0 if the pc is
negative), and a halted block runs again. Nothing else changes (log entry 21). -/
def State.withFetchBytes (s : State) (bs : List Byte) : State :=
  { s with
    mem := s.mem.place s.cur.pc.toNat bs
    cur := { s.cur with pc := (s.cur.pc.toNat : Int) }
    status := .running
    haltReason := .none }

end Sys2Proof.Machine
end

