-- ==== Sys2Proof/Machine/Step.lean ====
section
/-! DEFINITION. One step of the block (spec/40_decode_dispatch.md R100): one whole instruction, or its
halt. -/

namespace Sys2Proof.Machine

/-- Step() (R100): "if STATUS = Halted: no step"; else fetch, decode and run. -/
def step (s : State) : Host.Outcome State Fault Refusal :=
  match s.status with
  | .halted => .fault .halted
  | .running =>
    match s.fetch with
    | .ok i => exec i s
    | .error e => .next (s.fetchFault e)

/-- The state whose next step runs the instruction whose bits are w (log entry 21). -/
def State.withFetchWord (s : State) (nbits w : Nat) : State := s.withFetchBytes (tableBytes nbits w)

end Sys2Proof.Machine
end

