-- ==== Sys2Proof/Machine/Reset.lean ====
section
/-! DEFINITION. Reset (spec/70_reset_and_hazards.md R290–R296, spec/41_text.md R142, R143): what the
host's Reset makes of a loaded image. -/

namespace Sys2Proof.Machine

/-- LatchHeader() (R291), in the order of spec/20_memory.md R59; none where a read is out of bounds. -/
def latchHeader (m : Memory) : Option Header := do
  let v ← m.readByte 0x00
  let pc ← m.readWord 0x06
  let di ← m.readWord 0x08
  let ob ← m.readWord 0x0A
  let gl ← m.readWord 0x0C
  let ab ← m.readWord 0x18
  pure ⟨v, pc, di, ob, gl, ab⟩

/-- A list as a vector, when it has the length. -/
def toVector {α : Type} (n : Nat) (l : List α) : Option (Vector α n) :=
  if h : l.length = n then some ⟨l.toArray, by simpa using h⟩ else none

/-- LoadGlobals() (R292). -/
def loadGlobals (m : Memory) (table : Word) : Option (Vector Word 240) :=
  match m.readWords 240 (table.toNat : Int) with
  | .ok ws => toVector 240 ws
  | .error _ => none

/-- One abbreviation entry (R142): its string decoded with an empty table (R143). -/
def loadEntry (m : Memory) (p : Word) : Option Text :=
  match m.codes (unpack p) with
  | .ok r => some (decodeCodes [] r.1)
  | .error _ => none

/-- The strings of n entries from an entry's address on, in index order (R142). -/
def loadEntries (m : Memory) : Nat → Int → Option (List Text)
  | 0, _ => some []
  | n + 1, a =>
    match m.readWord a with
    | none => none
    | some p =>
      match loadEntry m p with
      | none => none
      | some t => (loadEntries m n (a + 2)).map (t :: ·)

/-- LoadAbbrev() (R142, R293). -/
def loadAbbrevs (m : Memory) (table : Word) : Option (Vector Text 96) :=
  match loadEntries m 96 (table.toNat : Int) with
  | some ts => toVector 96 ts
  | none => none

/-- The state before Reset's loads: the image loaded, and every other field at a value the model names,
which a failed reset leaves (R296, log entry 15). -/
def unloaded (p : Params) (m : Memory) : State := { State.reset with mem := m, params := p }

/-- "STATUS <- Halted and HALT_REASON <- InitError" (R290, R296, R268), with the table that failed. -/
def initFailure (s : State) (t : InitTable) : State :=
  { s with status := .halted, haltReason := .fault (.initError t) }

/-- Reset() (R290) of a loaded image. `objs` is OBJTAB, none where the ObjectTable's own load fails, and
`dictOk` says whether the Dictionary's load succeeds (R294: both are external). -/
def boot (p : Params) (m : Memory) (objs : Option (List GameObject)) (dictOk : Bool) : State :=
  match latchHeader m with
  | none => initFailure (unloaded p m) .header
  | some h =>
    match loadGlobals m h.globalsTab with
    | none => initFailure (unloaded p m) .globals
    | some g =>
      match loadAbbrevs m h.abbrevTab with
      | none => initFailure (unloaded p m) .abbreviations
      | some a =>
        match objs with
        | none => initFailure (unloaded p m) .objectTable
        | some os =>
          if dictOk then
            { unloaded p m with
              hdr := h, globals := g, abbrevs := a, objs := os, sink := [],
              cur := initialFrame (h.initPc.toNat : Int), callers := [],
              status := .running, haltReason := .none }
          else initFailure (unloaded p m) .dictionary

end Sys2Proof.Machine
end

