-- ==== Sys2Proof/Safety.lean ====
section
/-! DEFINITION. What counts as a safe run, in the terms the claims use: how a run ends
(spec/60_exceptions.md R266, R273), taking a fault (R261), the invariant of the state, and the spec's
rules for variables, operands, suffixes and returns as relations. The relations are written from the
rules, case by case, not from the functions of Machine/: a claim that a meaning answers the state they
give says that the function follows the rule. -/

namespace Sys2Proof.Machine

/-! ## How a run ends -/

/-- The reason is a fault (R273: "a fault otherwise"). -/
def HaltReason.isFault : HaltReason → Bool
  | .none | .normal => false
  | .fault _ => true

/-- The run ended in a fault: "no claim may read" the state but STATUS, HALT_REASON and DIAG_* (R262). -/
def State.faulted (s : State) : Bool := s.haltReason.isFault

/-- The run ended normally (R273). -/
def State.endedNormally (s : State) : Bool := decide (s.status = .halted) && decide (s.haltReason = .normal)

/-- A safe step: it gives a next state that has not faulted. -/
def SafeStep (s : State) : Prop := ∃ t, step s = .next t ∧ t.faulted = false

/-- The outcome of running i at s is the fault k taken as R261 says: the next state is halted, with
HALT_REASON and DIAG_* set. Nothing is said of the rest of the state (R262). -/
def TakesFault (o : Host.Outcome State Fault Refusal) (i : Instr) (s : State) (k : FaultKind) : Prop :=
  ∃ t, o = .next t ∧ t.status = .halted ∧ t.haltReason = .fault k ∧ t.diagPc = s.cur.pc ∧
    t.diagOpbyte = (encode i).head? ∧ t.diagClass = some i.shape.cls ∧ t.diagOpcode = i.shape.number

/-! ## The invariant -/

/-- A count is within an open bound, none being ∞. -/
def withinBound (n : Nat) : Option Nat → Bool
  | none => true
  | some b => decide (n ≤ b)

/-- STATUS is Running exactly while HALT_REASON is None (R30). -/
def State.statusAgrees (s : State) : Prop := s.status = .running ↔ s.haltReason = .none

/-- What holds of a state that has not faulted: the image is in canonical form, there are at most 255
objects (R170), at most MAX_FRAMES frames (R26), and no evaluation stack is deeper than
MAX_EVAL_STACK (R24). -/
def State.bounded (s : State) : Prop :=
  s.mem.wf = true ∧ s.objs.length ≤ 255 ∧
    withinBound (s.callers.length + 1) s.params.maxFrames = true ∧
    ∀ f ∈ s.cur :: s.callers, withinBound f.stack.length s.params.maxEvalStack = true

/-- The invariant of the machine. A faulted state is bound only in its status registers (R262). -/
def State.Inv (s : State) : Prop := s.statusAgrees ∧ (s.faulted = false → s.bounded)

/-- Every link of the ObjectTable is 0 or the number of an object of the table (R170: "parent, sibling
and child object numbers"). -/
def State.linksInTable (s : State) : Prop :=
  ∀ g ∈ s.objs, g.parent.toNat ≤ s.objs.length ∧ g.sibling.toNat ≤ s.objs.length ∧
    g.child.toNat ≤ s.objs.length

/-! ## The variable-number space as relations (spec/10_state.md R34, R35, R36) -/

/-- ReadVar(v) at s returns x and leaves t (R34, R36). -/
inductive ReadsVar : State → Word → Word → State → Prop where
  | stack (s : State) (x : Word) (k : List Word) :
      s.cur.stack = x :: k → ReadsVar s 0 x (s.withStack k)
  | slot (s : State) (v x : Word) :
      1 ≤ v.toNat → v.toNat ≤ 15 → s.cur.locals[v.toNat - 1]? = some (some x) → ReadsVar s v x s
  | globalCell (s : State) (v x : Word) :
      16 ≤ v.toNat → v.toNat ≤ 254 → s.globals[v.toNat - 16]? = some x → ReadsVar s v x s

/-- ReadVar(v) at s raises k (R34, R36). -/
inductive ReadFails : State → Word → FaultKind → Prop where
  | underflow (s : State) : s.cur.stack = [] → ReadFails s 0 .stackUnderflow
  | unset (s : State) (v : Word) :
      1 ≤ v.toNat → v.toNat ≤ 15 → s.cur.locals[v.toNat - 1]? = some none → ReadFails s v (.unsetLocal v)
  | index (s : State) (v : Word) : 255 ≤ v.toNat → ReadFails s v (.invalidVariableIndex v)

/-- WriteVar(v, x) at s leaves t (R35, R36). -/
inductive WritesVar : State → Word → Word → State → Prop where
  | stack (s : State) (x : Word) :
      s.params.maxEvalStack ≠ some s.cur.stack.length →
      WritesVar s 0 x (s.withStack (x :: s.cur.stack))
  | slot (s : State) (v x : Word) :
      1 ≤ v.toNat → v.toNat ≤ 15 → WritesVar s v x (s.withLocal v.toNat x)
  | globalCell (s : State) (v x : Word) :
      16 ≤ v.toNat → v.toNat ≤ 254 → WritesVar s v x (s.withGlobal (v.toNat - 16) x)

/-- WriteVar(v, x) at s raises k (R35, R36). -/
inductive WriteFails : State → Word → FaultKind → Prop where
  | overflow (s : State) :
      s.params.maxEvalStack = some s.cur.stack.length → WriteFails s 0 .stackOverflow
  | index (s : State) (v : Word) : 255 ≤ v.toNat → WriteFails s v (.invalidVariableIndex v)

/-- Resolve of an operand at s returns x and leaves t (spec/40_decode_dispatch.md R105). -/
inductive Resolves : State → Operand → Word → State → Prop where
  | large (s : State) (w : Word) : Resolves s (.large w) w s
  | small (s : State) (b : Byte) : Resolves s (.small b) (b.setWidth 16) s
  | var (s : State) (b : Byte) (x : Word) (t : State) :
      ReadsVar s (b.setWidth 16) x t → Resolves s (.var b) x t

/-- Resolve of an operand at s raises k (R105). -/
inductive ResolveFails : State → Operand → FaultKind → Prop where
  | var (s : State) (b : Byte) (k : FaultKind) :
      ReadFails s (b.setWidth 16) k → ResolveFails s (.var b) k
  | omitted (s : State) : ResolveFails s .omitted .decodeError

/-- The operands resolved one after another, left to right (R105). -/
inductive ResolvesAll : State → List Operand → List Word → State → Prop where
  | nil (s : State) : ResolvesAll s [] [] s
  | cons (s : State) (o : Operand) (x : Word) (s1 : State) (os : List Operand) (xs : List Word)
      (t : State) : Resolves s o x s1 → ResolvesAll s1 os xs t → ResolvesAll s (o :: os) (x :: xs) t

/-! ## Suffixes and returns as relations -/

/-- StoreResult(x, q) at s leaves t, the store byte being read at q (R106). -/
def StoresAt (s : State) (q : Int) (x : Word) (t : State) : Prop :=
  ∃ v, s.mem.readByte q = some v ∧ WritesVar s (v.setWidth 16) x t

/-- Return(x) at s leaves t (spec/43_frames_calls.md R204). -/
def Returns (s : State) (x : Word) (t : State) : Prop :=
  ∃ f cs u, s.callers = f :: cs ∧ StoresAt (s.withFrames f cs) f.pc x u ∧ t = u.withPc (f.pc + 1)

/-- The branch bytes at q give a polarity, an offset and the address after them (R107,
spec/30_encoding.md R80). -/
inductive BranchSuffix (m : Memory) (q : Int) : Bool → Int → Int → Prop where
  | short (b : Byte) :
      m.readByte q = some b → b.getLsbD 6 = true →
      BranchSuffix m q (b.getLsbD 7) ((b.toNat % 64 : Nat) : Int) (q + 1)
  | longForward (b c : Byte) :
      m.readByte q = some b → m.readByte (q + 1) = some c → b.getLsbD 6 = false →
      b.getLsbD 5 = false →
      BranchSuffix m q (b.getLsbD 7) ((b.toNat % 64 * 256 + c.toNat : Nat) : Int) (q + 2)
  | longBackward (b c : Byte) :
      m.readByte q = some b → m.readByte (q + 1) = some c → b.getLsbD 6 = false →
      b.getLsbD 5 = true →
      BranchSuffix m q (b.getLsbD 7) (((b.toNat % 64 * 256 + c.toNat : Nat) : Int) - 0x4000) (q + 2)

/-- Branch(cond, q) at s leaves t (R108). -/
inductive Branches (s : State) (cond : Bool) (q : Int) : State → Prop where
  | stays (p : Bool) (off after : Int) :
      BranchSuffix s.mem q p off after → cond ≠ p → Branches s cond q (s.withPc after)
  | jumps (off after : Int) :
      BranchSuffix s.mem q cond off after → off ≠ 0 → off ≠ 1 →
      Branches s cond q (s.withPc (after + off - 2))
  | returnsFalse (after : Int) (t : State) :
      BranchSuffix s.mem q cond 0 after → Returns s 0 t → Branches s cond q t
  | returnsTrue (after : Int) (t : State) :
      BranchSuffix s.mem q cond 1 after → Returns s 1 t → Branches s cond q t

/-- StoreResult at q raises k (R106): its byte cannot be read, or the variable it names cannot be
written. -/
inductive StoreFails (s : State) (q : Int) : FaultKind → Prop where
  | unreadable : s.mem.readByte q = none → StoreFails s q (.outOfBounds q)
  | unwritable (v : Byte) (k : FaultKind) :
      s.mem.readByte q = some v → WriteFails s (v.setWidth 16) k → StoreFails s q k

/-- Return at s raises k (R204): there is no caller, or the store into the caller fails. -/
inductive ReturnFails (s : State) : FaultKind → Prop where
  | initial : s.callers = [] → ReturnFails s .returnFromMain
  | store (f : Frame) (cs : List Frame) (k : FaultKind) :
      s.callers = f :: cs → StoreFails (s.withFrames f cs) f.pc k → ReturnFails s k

/-- Branch(cond, q) at s raises k (R107, R108): a branch byte cannot be read, or the branch returns and
the return fails. -/
inductive BranchFails (s : State) (cond : Bool) (q : Int) : FaultKind → Prop where
  | first : s.mem.readByte q = none → BranchFails s cond q (.outOfBounds q)
  | second (b : Byte) :
      s.mem.readByte q = some b → b.getLsbD 6 = false → s.mem.readByte (q + 1) = none →
      BranchFails s cond q (.outOfBounds (q + 1))
  | returns (off after : Int) (k : FaultKind) :
      BranchSuffix s.mem q cond off after → (off = 0 ∨ off = 1) → ReturnFails s k →
      BranchFails s cond q k

/-! ## Fetch as a relation (spec/40_decode_dispatch.md R101) -/

/-- An operand of a type can be read at p: a word for LargeConst, a byte otherwise (R101's Fetch). -/
def OperandReadable (m : Memory) (t : OpType) (p : Int) : Prop :=
  if t = .largeConst then (m.readWord p).isSome = true else (m.readByte p).isSome = true

/-- Of operands of these types laid out from p on, up to the first Omitted, the first that cannot be
read begins at e. -/
inductive OperandsRunOut (m : Memory) : List OpType → Int → Int → Prop where
  | here (t : OpType) (ts : List OpType) (p : Int) :
      t ≠ .omitted → ¬ OperandReadable m t p → OperandsRunOut m (t :: ts) p p
  | later (t : OpType) (ts : List OpType) (p e : Int) :
      t ≠ .omitted → OperandReadable m t p → OperandsRunOut m ts (p + t.size) e →
      OperandsRunOut m (t :: ts) p e

/-- Decode(a) reads past the image, and the first read that does begins at e (R101): the opcode byte, the
types byte of the variable form, or an operand. -/
inductive DecodeRunsOut (m : Memory) (a : Int) : Int → Prop where
  | opcode : m.readByte a = none → DecodeRunsOut m a a
  | types (b : Byte) :
      m.readByte a = some b → 0xC0 ≤ b.toNat → m.readByte (a + 1) = none → DecodeRunsOut m a (a + 1)
  | variableForm (b tb : Byte) (e : Int) :
      m.readByte a = some b → 0xC0 ≤ b.toNat → m.readByte (a + 1) = some tb →
      OperandsRunOut m (typeFields tb) (a + 2) e → DecodeRunsOut m a e
  | shortForm (b : Byte) (e : Int) :
      m.readByte a = some b → 0x80 ≤ b.toNat → b.toNat < 0xC0 → b ≠ 0xBE →
      OperandsRunOut m [opType (b.extractLsb' 4 2)] (a + 1) e → DecodeRunsOut m a e
  | longForm (b : Byte) (e : Int) :
      m.readByte a = some b → b.toNat < 0x80 →
      OperandsRunOut m [longType (b.getLsbD 6), longType (b.getLsbD 5)] (a + 1) e → DecodeRunsOut m a e

/-! ## Text and objects as relations -/

/-- The three codes of a packed word by their values (spec/41_text.md R131). -/
def codesOfWord (w : Word) : List Code :=
  [BitVec.ofNat 5 (w.toNat / 1024), BitVec.ofNat 5 (w.toNat / 32), BitVec.ofNat 5 w.toNat]

/-- A terminated string of packed words lies at an address: its codes, and the address after its last
word (R130). -/
inductive PackedText (m : Memory) : Int → List Code → Int → Prop where
  | last (p : Int) (w : Word) :
      m.readWord p = some w → w.getLsbD 15 = true → PackedText m p (codesOfWord w) (p + 2)
  | more (p : Int) (w : Word) (cs : List Code) (e : Int) :
      m.readWord p = some w → w.getLsbD 15 = false → PackedText m (p + 2) cs e →
      PackedText m p (codesOfWord w ++ cs) e

/-- A string of packed words at an address has no end bit before the image ends: the first word that
cannot be read lies at e (R130). -/
inductive TextRunsOut (m : Memory) : Int → Int → Prop where
  | here (p : Int) : m.readWord p = none → TextRunsOut m p p
  | later (p : Int) (w : Word) (e : Int) :
      m.readWord p = some w → w.getLsbD 15 = false → TextRunsOut m (p + 2) e → TextRunsOut m p e

/-- The number a decimal text denotes: a sign or none, then one digit or more, no leading zero (R146). -/
def digitsValue (t : Text) : Nat := t.foldl (fun n c => 10 * n + (c.toNat - 48)) 0

/-- The text is the decimal form of the number (R146): only digits after an optional "-", "no leading
zeros", "0" for zero. -/
def IsDecimal (z : Int) (t : Text) : Prop :=
  ∃ ds : Text, t = (if z < 0 then '-' :: ds else ds) ∧ ds ≠ [] ∧
    (∀ c ∈ ds, 48 ≤ c.toNat ∧ c.toNat ≤ 57) ∧ (ds.head? = some '0' → ds = ['0']) ∧
    digitsValue ds = z.natAbs

/-- A read of object n through the port sees record g (spec/42_objects.md R171). -/
def SeesObject (s : State) (n : Word) (g : GameObject) : Prop :=
  (n = 0 ∧ g.parent = 0 ∧ g.sibling = 0 ∧ g.child = 0 ∧ g.name = [] ∧
    ∀ a, a < 32 → g.attrs[a]? = some false) ∨
  (n ≠ 0 ∧ s.objs[n.toNat - 1]? = some g)

/-- The end address of an instruction that starts at the state's pc (spec/30_encoding.md R82). -/
def endOf (i : Instr) (s : State) : Int := s.cur.pc + i.size

/-- From s to t no register changes but the variable numbered v, the evaluation stack (which loses what
operands pop, and gains one word when v is 0) and the pc; nothing else of the state changes, and every
byte of memory reads as before (spec/10_state.md R37). -/
def ChangesOnlyVariable (v : Nat) (s t : State) : Prop :=
  (∀ j, j < 240 → j + 16 ≠ v → t.globals[j]? = s.globals[j]?) ∧
  (∀ j, j < 15 → j + 1 ≠ v → t.cur.locals[j]? = s.cur.locals[j]?) ∧
  (v ≠ 0 → t.cur.stack <:+ s.cur.stack) ∧
  (v = 0 → ∃ x k, t.cur.stack = x :: k ∧ k <:+ s.cur.stack) ∧
  t = { s with globals := t.globals, cur := t.cur } ∧
  ∀ a, t.mem.readByte a = s.mem.readByte a

/-- "A 480-byte global table inside the image at HDR_GLOBALS" (spec/70_reset_and_hazards.md R297, R292). -/
def GlobalsReadable (m : Memory) : Prop :=
  ∃ g : Word, m.readWord 0x0C = some g ∧
    ∀ i : Nat, i < 240 → ∃ w, m.readWord ((g.toNat : Int) + 2 * i) = some w

/-- "A 192-byte abbreviation table at HDR_ABBREV, whose 96 packed addresses each lead to a terminated
string inside the image" (R297, R293). -/
def AbbrevsReadable (m : Memory) : Prop :=
  ∃ a : Word, m.readWord 0x18 = some a ∧
    ∀ i : Nat, i < 96 → ∃ (p : Word) (cs : List Code) (e : Int),
      m.readWord ((a.toNat : Int) + 2 * i) = some p ∧ PackedText m (2 * (p.toNat : Int)) cs e

/-- The dispatch key is one R84 lists as unimplemented. -/
def unimplementedKey : OpClass → Nat → Bool
  | .op2, n => n ∈ [0, 1, 2, 3, 4, 5, 7, 8, 9, 15, 16, 17, 18, 19, 22, 25, 26, 27, 28, 29, 30, 31]
  | .op1, n => n ∈ [0, 4, 7, 8, 9, 12, 13, 14, 15]
  | .op0, n => n ∈ [3, 4, 5, 6, 7, 8, 9, 12, 13, 15]
  | .vari, n => n ∈ [1, 2, 3, 4] || decide (7 ≤ n ∧ n ≤ 31)
  | .ext, _ => false

end Sys2Proof.Machine
end

