-- ==== Sys2Proof/Certificates/Slice0/Obligations.lean ====
section
/-! DEFINITION. The statements for the provers. Each docstring names the rules of spec/ it formalises.
The relations (Resolves, WritesVar, StoresAt, Returns, Branches, PackedText, SeesObject, TakesFault) are
Safety.lean's, written from the rules. A statement about a state after a fault reads only STATUS,
HALT_REASON and DIAG_* (spec/60_exceptions.md R262). -/

open Sys2Proof Sys2Proof.Machine

/-! ## Encoding and decoding -/

/-- Every well-formed instruction decodes from its encoding, whatever bytes follow
(spec/30_encoding.md R70–R77, R83, R84; spec/40_decode_dispatch.md R101). -/
def Obligations.DecodeOfEncodeIsIdentity : Prop :=
  ∀ (i : Instr) (rest : List Byte), WellFormed i → decode (encode i ++ rest) = .ok i

/-- The end address lies as many bytes after the start as the encoding is long: 1, 1 more in the
variable form, and the operands' sizes (R82). -/
def Obligations.EndAddressCountsEncodedBytes : Prop :=
  ∀ (i : Instr) (a : Int),
    (i.inst a).stop = a + (encode i).length ∧
    (encode i).length = 1 + (if 0xC0 ≤ i.shape.opbyte.toNat then 1 else 0) +
      (i.shape.operands.map fun o => o.bytes.length).sum

/-- Words written out from the spec's encodings decode to the instruction they stand for
(spec/95_test_vectors.md V2–V6, DEC-3, DEC-5, DEC-8, DEC-9, DEC-11, ERR-1). -/
def Obligations.SpecWordsDecode : Prop :=
  decode [0xE0, 0x3F, 0x28, 0x68] = .ok (.call [.large 0x2868]) ∧
  decode [0xE0, 0x1F, 0x4A, 0x98, 0xAE] = .ok (.call [.large 0x4A98, .small 0xAE]) ∧
  decode [0xB0] = .ok .rtrue ∧
  decode [0x95, 0x03] = .ok (.inc (.small 3)) ∧
  decode [0x2D, 0x01, 0x65] = .ok (.store .long [.small 1, .var 0x65]) ∧
  decode [0x4D, 0x01, 0x65] = .ok (.store .long [.var 1, .small 0x65]) ∧
  decode [0xCD, 0x5F, 0x01, 0x65] = .ok (.store .vari [.small 1, .small 0x65]) ∧
  decode [0xAB, 0x12] = .ok (.ret (.var 0x12)) ∧
  decode [0xE0, 0x00, 1, 2, 3, 4, 5, 6, 7, 8] =
    .ok (.call [.large 0x0102, .large 0x0304, .large 0x0506, .large 0x0708]) ∧
  decode [0xE6, 0x3C, 0x00, 0x07, 0x09] = .ok (.printNum [.large 7]) ∧
  decode [0xBE] = .ok .extendedForm

/-- The opcode byte selects form and class, "The tests are made in this order, and the first that holds
wins" (R71). -/
def Obligations.OpcodeByteSelectsFormAndClass : Prop :=
  ∀ b : Byte,
    (b = 0xBE → opcodeForm b = .extended ∧ opcodeClass b = .ext) ∧
    (b ≠ 0xBE → 0xC0 ≤ b.toNat → b.getLsbD 5 = true →
      opcodeForm b = .variableVAR ∧ opcodeClass b = .vari) ∧
    (b ≠ 0xBE → 0xC0 ≤ b.toNat → b.getLsbD 5 = false →
      opcodeForm b = .variable2OP ∧ opcodeClass b = .op2) ∧
    (b ≠ 0xBE → 0x80 ≤ b.toNat → b.toNat < 0xC0 → b.toNat / 16 % 4 = 3 →
      opcodeForm b = .short .omitted ∧ opcodeClass b = .op0) ∧
    (b ≠ 0xBE → 0x80 ≤ b.toNat → b.toNat < 0xC0 → b.toNat / 16 % 4 ≠ 3 →
      (∃ t, t ≠ .omitted ∧ opcodeForm b = .short t) ∧ opcodeClass b = .op1) ∧
    (b.toNat < 0x80 → opcodeForm b = .long ∧ opcodeClass b = .op2)

/-- Any ten bytes decode, and to a well-formed instruction: "Every opcode byte decodes" (R84), and
decoding never fails for bytes lying inside the image (R101; spec/90_conflicts.md C6). -/
def Obligations.TenBytesDecodeWellFormed : Prop :=
  ∀ bs : List Byte, 10 ≤ bs.length → ∃ i, decode bs = .ok i ∧ WellFormed i

/-- The decoder reads no byte past the end address, so no suffix byte (R102, R82): what follows the
instruction's own bytes does not change what is decoded. -/
def Obligations.DecodeReadsOnlyItsOwnBytes : Prop :=
  ∀ (bs rest : List Byte) (i : Instr), decode bs = .ok i →
    i.size ≤ bs.length ∧ decode (bs.take i.size ++ rest) = .ok i

/-- "Any type fields after the first Omitted are ignored, even if they are not 3" (R75): two types bytes
with the same fields before the first Omitted decode alike. -/
def Obligations.FieldsAfterOmittedAreIgnored : Prop :=
  ∀ (b tb tb' : Byte) (rest : List Byte), 0xC0 ≤ b.toNat →
    (typeFields tb).takeWhile (fun t => decide (t ≠ .omitted)) =
      (typeFields tb').takeWhile (fun t => decide (t ≠ .omitted)) →
    decode (b :: tb :: rest) = decode (b :: tb' :: rest)

/-! ## The step -/

/-- A running block whose bytes at the pc decode to an instruction runs it (R100). -/
def Obligations.StepRunsDecodedInstruction : Prop :=
  ∀ (s : State) (i : Instr), s.status = .running → decode (s.mem.window 10 s.cur.pc) = .ok i →
    step s = exec i s

/-- A running block with the encoding of a well-formed instruction in the image at its pc runs that
instruction, wherever the image ends after it (R100, R101). -/
def Obligations.StepRunsInstructionEncodedAtPc : Prop :=
  ∀ (s : State) (i : Instr), s.status = .running → WellFormed i →
    (∀ (k : Nat) (b : Byte), (encode i)[k]? = some b → s.mem.readByte (s.cur.pc + k) = some b) →
    step s = exec i s

/-- A halted block takes no step, whatever halted it (R100, R263). -/
def Obligations.HaltedBlockTakesNoStep : Prop :=
  ∀ s : State, s.status = .halted → step s = .fault .halted

/-- A fetch or decode that reads past the image, at the opcode byte, the types byte or an operand, halts
the run with OutOfBounds at the address where that read begins, DIAG_PC the pc and DIAG_OPBYTE the opcode
byte if it could be read; a pc outside the image is such a fetch (R100, R101, R261, R264). That
DIAG_CLASS and DIAG_OPCODE are then what the opcode byte gives is the model's reading (log entry 13). -/
def Obligations.FetchOutsideImageIsOutOfBounds : Prop :=
  ∀ s : State, s.status = .running →
    (∀ e, DecodeRunsOut s.mem s.cur.pc e → ∃ t, step s = .next t ∧ t.status = .halted ∧
      t.haltReason = .fault (.outOfBounds e) ∧ t.diagPc = s.cur.pc ∧
      t.diagOpbyte = s.mem.readByte s.cur.pc ∧
      t.diagClass = (s.mem.readByte s.cur.pc).map opcodeClass ∧
      t.diagOpcode = (s.mem.readByte s.cur.pc).bind opcodeNumber) ∧
    (s.cur.pc < 0 ∨ (s.mem.size : Int) ≤ s.cur.pc →
      ∃ t, step s = .next t ∧ t.status = .halted ∧ t.haltReason = .fault (.outOfBounds s.cur.pc) ∧
        t.diagPc = s.cur.pc ∧ t.diagOpbyte = none ∧ t.diagClass = none ∧ t.diagOpcode = none)

/-! ## Memory -/

/-- MemRead: a byte, or OutOfBounds outside 0..MEM_SIZE-1; a word is big-endian, and out of bounds when
either of its bytes is (spec/20_memory.md R52, R53). -/
def Obligations.MemoryReadsAreBoundedAndBigEndian : Prop :=
  ∀ (s : State) (a : Int),
    ((a < 0 ∨ (s.mem.size : Int) ≤ a) → memByte a s = .error (.outOfBounds a) s) ∧
    (0 ≤ a → a < s.mem.size → ∃ b, s.mem.readByte a = some b ∧ memByte a s = .ok b s) ∧
    ((a < 0 ∨ (s.mem.size : Int) ≤ a + 1) → memWords 1 a s = .error (.outOfBounds a) s) ∧
    (∀ hi lo : Byte, s.mem.readByte a = some hi → s.mem.readByte (a + 1) = some lo →
      memWords 1 a s = .ok [BitVec.ofNat 16 (256 * hi.toNat + lo.toNat)] s)

/-- MemWrite of a byte and of a word: refused outside the image, else the bytes written read back, the
high byte of a word first, every other byte reads as before, and MEM_SIZE stays (R54). -/
def Obligations.MemWriteWritesOnlyItsBytes : Prop :=
  ∀ (m : Memory) (a : Int),
    (∀ v : Byte, ((a < 0 ∨ (m.size : Int) ≤ a) → m.writeByte a v = none) ∧
      (0 ≤ a → a < m.size → ∃ m', m.writeByte a v = some m' ∧ m'.size = m.size ∧
        m'.readByte a = some v ∧ ∀ b, b ≠ a → m'.readByte b = m.readByte b)) ∧
    (∀ v : Word, ((a < 0 ∨ (m.size : Int) ≤ a + 1) → m.writeWord a v = none) ∧
      (0 ≤ a → a + 1 < m.size → ∃ m', m.writeWord a v = some m' ∧ m'.size = m.size ∧
        m'.readByte a = some (BitVec.ofNat 8 (v.toNat / 256)) ∧
        m'.readByte (a + 1) = some (BitVec.ofNat 8 v.toNat) ∧
        ∀ b, b ≠ a → b ≠ a + 1 → m'.readByte b = m.readByte b))

/-! ## The variable-number space, operands and suffixes -/

/-- ReadVar by variable number: stack, local, global, and the faults (spec/10_state.md R34, R36). -/
def Obligations.ReadVarByNumber : Prop :=
  ∀ (s : State) (v : Word),
    (v.toNat = 0 → s.cur.stack = [] → readVar v s = .error .stackUnderflow s) ∧
    (∀ x k, v.toNat = 0 → s.cur.stack = x :: k → readVar v s = .ok x (s.withStack k)) ∧
    (1 ≤ v.toNat → v.toNat ≤ 15 → s.cur.locals[v.toNat - 1]? = some none →
      readVar v s = .error (.unsetLocal v) s) ∧
    (∀ x, 1 ≤ v.toNat → v.toNat ≤ 15 → s.cur.locals[v.toNat - 1]? = some (some x) →
      readVar v s = .ok x s) ∧
    (16 ≤ v.toNat → v.toNat ≤ 254 →
      ∃ x, s.globals[v.toNat - 16]? = some x ∧ readVar v s = .ok x s) ∧
    (255 ≤ v.toNat → readVar v s = .error (.invalidVariableIndex v) s)

/-- WriteVar by variable number: a push, a local, a global, and the faults, and every other register
as before (R35, R36). -/
def Obligations.WriteVarByNumber : Prop :=
  ∀ (s : State) (v x : Word),
    (v.toNat = 0 → s.params.maxEvalStack = some s.cur.stack.length →
      writeVar v x s = .error .stackOverflow s) ∧
    (v.toNat = 0 → s.params.maxEvalStack ≠ some s.cur.stack.length →
      writeVar v x s = .ok () { s with cur := { s.cur with stack := x :: s.cur.stack } }) ∧
    (1 ≤ v.toNat → v.toNat ≤ 15 → ∃ l, writeVar v x s = .ok () { s with cur := { s.cur with locals := l } } ∧
      ∀ j, j < 15 → l[j]? = if j + 1 = v.toNat then some (some x) else s.cur.locals[j]?) ∧
    (16 ≤ v.toNat → v.toNat ≤ 254 → ∃ g, writeVar v x s = .ok () { s with globals := g } ∧
      ∀ j, j < 240 → g[j]? = if j + 16 = v.toNat then some x else s.globals[j]?) ∧
    (255 ≤ v.toNat → writeVar v x s = .error (.invalidVariableIndex v) s)

/-- Resolve: constants give their value, a byte zero-extended, a Variable its value, an Omitted
operand DecodeError; two operands resolve first to last (spec/40_decode_dispatch.md R105). -/
def Obligations.OperandsResolveLeftToRight : Prop :=
  (∀ (s : State) (w : Word), resolve (.large w) s = .ok w s) ∧
  (∀ (s : State) (b : Byte), resolve (.small b) s = .ok (BitVec.ofNat 16 b.toNat) s) ∧
  (∀ (s : State) (b : Byte), resolve (.var b) s = readVar (BitVec.ofNat 16 b.toNat) s) ∧
  (∀ s : State, resolve .omitted s = .error .decodeError s) ∧
  (∀ (s s1 s2 : State) (o1 o2 : Operand) (x y : Word), resolve o1 s = .ok x s1 →
    resolve o2 s1 = .ok y s2 → resolveAll [o1, o2] s = .ok [x, y] s2)

/-- StoreResult(x, q): the store byte is a variable number, written through WriteVar, and the address
after it is answered; its faults (R106). -/
def Obligations.StoreSuffixWritesNamedVariable : Prop :=
  ∀ (s : State) (x : Word) (q : Int),
    (s.mem.readByte q = none → storeResult x q s = .error (.outOfBounds q) s) ∧
    (∀ v t, s.mem.readByte q = some v → WritesVar s (v.setWidth 16) x t →
      storeResult x q s = .ok (q + 1) t) ∧
    (∀ v k, s.mem.readByte q = some v → WriteFails s (v.setWidth 16) k →
      storeResult x q s = .error k s)

/-- Branch(cond, q), with its bytes read at q: it fires when the condition equals the polarity; offsets 0
and 1 return false and true from the routine, any other offset jumps to after + offset - 2; it falls
through otherwise. A branch byte that cannot be read is OutOfBounds, fired or not (spec/30_encoding.md
R80; R107, R108). -/
def Obligations.BranchFiresOnEqualPolarity : Prop :=
  ∀ (s : State) (cond : Bool) (q : Int),
    (∀ (p : Bool) (off after : Int), BranchSuffix s.mem q p off after →
      (cond ≠ p → branch cond q s = .ok () (s.withPc after)) ∧
      (cond = p → off = 0 → branch cond q s = returnWith 0 s) ∧
      (cond = p → off = 1 → branch cond q s = returnWith 1 s) ∧
      (cond = p → off ≠ 0 → off ≠ 1 → branch cond q s = .ok () (s.withPc (after + off - 2)))) ∧
    (s.mem.readByte q = none → branch cond q s = .error (.outOfBounds q) s) ∧
    (∀ b, s.mem.readByte q = some b → b.getLsbD 6 = false → s.mem.readByte (q + 1) = none →
      branch cond q s = .error (.outOfBounds (q + 1)) s)

/-- Return(x): ReturnFromMain with no caller; else the frame and its stack go, the store byte is read
now at the caller's pc, x is written in the caller's frame and the caller's pc moves past the byte. A
store byte that cannot be read is OutOfBounds at the caller's pc, and a variable that cannot be written in
the caller's frame (number 255, or a full stack) is InvalidVariableIndex or StackOverflow (R204, R35,
R36). -/
def Obligations.ReturnStoresIntoCaller : Prop :=
  ∀ (s : State) (x : Word),
    (s.callers = [] → returnWith x s = .error .returnFromMain s) ∧
    (∀ f cs v t, s.callers = f :: cs → s.mem.readByte f.pc = some v →
      WritesVar { s with cur := f, callers := cs } (v.setWidth 16) x t →
      returnWith x s = .ok () { t with cur := { t.cur with pc := f.pc + 1 } }) ∧
    (∀ f cs, s.callers = f :: cs → s.mem.readByte f.pc = none →
      ∃ u, returnWith x s = .error (.outOfBounds f.pc) u) ∧
    (∀ f cs v, s.callers = f :: cs → s.mem.readByte f.pc = some v →
      (v.toNat = 255 → ∃ u, returnWith x s = .error (.invalidVariableIndex 255) u) ∧
      (v.toNat = 0 → s.params.maxEvalStack = some f.stack.length →
        ∃ u, returnWith x s = .error .stackOverflow u))

/-! ## Variable and arithmetic instructions -/

/-- `add`, `sub`, `div` and `mod` complete: the sum or difference wrapped modulo 0x10000, or for a divisor
that is not 0 the floor of the unsigned quotient or the unsigned remainder, goes to the variable the store
byte names, and the pc moves past that byte. A divisor of 0 takes DivideByZero, after the operands and
before the store; a store byte that cannot be read, or names a variable that cannot be written, is the
instruction's fault (spec/44_variables_arith.md R234–R238; R106, R264). -/
def Obligations.ArithmeticStoresItsResult : Prop :=
  ∀ (form : Form2OP) (o1 o2 : Operand) (s s1 s2 t : State) (a b : Word),
    Resolves s o1 a s1 → Resolves s1 o2 b s2 →
    (StoresAt s2 (endOf (.add form [o1, o2]) s) (BitVec.ofNat 16 (a.toNat + b.toNat)) t →
      exec (.add form [o1, o2]) s = .next (t.withPc (endOf (.add form [o1, o2]) s + 1))) ∧
    (StoresAt s2 (endOf (.sub form [o1, o2]) s) (BitVec.ofInt 16 ((a.toNat : Int) - b.toNat)) t →
      exec (.sub form [o1, o2]) s = .next (t.withPc (endOf (.sub form [o1, o2]) s + 1))) ∧
    (b ≠ 0 → StoresAt s2 (endOf (.div form [o1, o2]) s) (BitVec.ofNat 16 (a.toNat / b.toNat)) t →
      exec (.div form [o1, o2]) s = .next (t.withPc (endOf (.div form [o1, o2]) s + 1))) ∧
    (b ≠ 0 → StoresAt s2 (endOf (.mod form [o1, o2]) s) (BitVec.ofNat 16 (a.toNat % b.toNat)) t →
      exec (.mod form [o1, o2]) s = .next (t.withPc (endOf (.mod form [o1, o2]) s + 1))) ∧
    (b = 0 → TakesFault (exec (.div form [o1, o2]) s) (.div form [o1, o2]) s .divideByZero ∧
      TakesFault (exec (.mod form [o1, o2]) s) (.mod form [o1, o2]) s .divideByZero) ∧
    (∀ k, ∀ i ∈ [Instr.add form [o1, o2], .sub form [o1, o2]], StoreFails s2 (endOf i s) k →
      TakesFault (exec i s) i s k) ∧
    (∀ k, b ≠ 0 → ∀ i ∈ [Instr.div form [o1, o2], .mod form [o1, o2]], StoreFails s2 (endOf i s) k →
      TakesFault (exec i s) i s k)

/-- `store`, `inc` and `dec` complete: the first operand's value names the variable; store writes the second
operand's value to it, inc and dec read it and write it one up or one down, modulo 0x10000. A variable
they cannot read or write is their fault (R230–R233). -/
def Obligations.VariableInstructionsWriteByReference : Prop :=
  ∀ (o : Operand) (s s1 : State) (v : Word), Resolves s o v s1 →
    (∀ (form : Form2OP) (o2 : Operand) (x : Word) (s2 : State), Resolves s1 o2 x s2 →
      (∀ t, WritesVar s2 v x t →
        exec (.store form [o, o2]) s = .next (t.withPc (endOf (.store form [o, o2]) s))) ∧
      (∀ k, WriteFails s2 v k → TakesFault (exec (.store form [o, o2]) s) (.store form [o, o2]) s k)) ∧
    (∀ x s2 t, ReadsVar s1 v x s2 →
      (WritesVar s2 v (BitVec.ofNat 16 (x.toNat + 1)) t →
        exec (.inc o) s = .next (t.withPc (endOf (.inc o) s))) ∧
      (WritesVar s2 v (BitVec.ofInt 16 ((x.toNat : Int) - 1)) t →
        exec (.dec o) s = .next (t.withPc (endOf (.dec o) s)))) ∧
    (∀ k, ReadFails s1 v k ∨ (∃ x s2, ReadsVar s1 v x s2 ∧ WriteFails s2 v k) →
      TakesFault (exec (.inc o) s) (.inc o) s k ∧ TakesFault (exec (.dec o) s) (.dec o) s k)

/-! ## Calls, returns and the halt -/

/-- `call` of a routine completes: a new frame with pc R + 1 + 2L, locals 1..L the defaults overwritten by
the arguments, locals above L unset and an empty stack, on top of the caller, which rests on its store
byte (spec/43_frames_calls.md R200, R201, R203). -/
def Obligations.CallEntersRoutine : Prop :=
  ∀ (o : Operand) (os : List Operand) (s s1 : State) (r : Word) (args : List Word) (count : Byte)
    (d : Nat → Word), os.length ≤ 3 → ResolvesAll s (o :: os) (r :: args) s1 → r ≠ 0 →
    s1.mem.readByte (2 * (r.toNat : Int)) = some count → count.toNat ≤ 15 →
    s1.params.maxFrames ≠ some (s1.callers.length + 1) →
    (∀ j : Nat, j < count.toNat → s1.mem.readWord (2 * (r.toNat : Int) + 1 + 2 * j) = some (d j)) →
    ∃ f : Frame, exec (.call (o :: os)) s = .next { s1 with
        cur := f, callers := { s1.cur with pc := endOf (.call (o :: os)) s } :: s1.callers } ∧
      f.pc = 2 * (r.toNat : Int) + 1 + 2 * (count.toNat : Int) ∧ f.stack = [] ∧
      ∀ j, j < 15 → f.locals[j]? =
        some (if j < count.toNat then some (args.getD j (d j)) else none)

/-- "call to nothing": a routine operand whose value is 0 stores 0 at once and pushes no frame (R202). -/
def Obligations.CallOfZeroStoresZero : Prop :=
  ∀ (o : Operand) (os : List Operand) (s s1 t : State) (args : List Word), os.length ≤ 3 →
    ResolvesAll s (o :: os) (0 :: args) s1 → StoresAt s1 (endOf (.call (o :: os)) s) 0 t →
    exec (.call (o :: os)) s = .next (t.withPc (endOf (.call (o :: os)) s + 1))

/-- The faults of a call once its operands are resolved, in their order: the header byte out of bounds,
then a local count over 15, then the depth of the call stack, then the first default word out of bounds;
and of a call to nothing the faults of its store (R200–R202, R106, R264). -/
def Obligations.CallFaultsInOrder : Prop :=
  ∀ (o : Operand) (os : List Operand) (s s1 : State) (r : Word) (args : List Word), os.length ≤ 3 →
    ResolvesAll s (o :: os) (r :: args) s1 →
    (r ≠ 0 → s1.mem.readByte (2 * (r.toNat : Int)) = none → TakesFault (exec (.call (o :: os)) s)
      (.call (o :: os)) s (.outOfBounds (2 * (r.toNat : Int)))) ∧
    (∀ count : Byte, r ≠ 0 → s1.mem.readByte (2 * (r.toNat : Int)) = some count →
      (15 < count.toNat → TakesFault (exec (.call (o :: os)) s) (.call (o :: os)) s
        (.invalidLocalCount count)) ∧
      (count.toNat ≤ 15 → s1.params.maxFrames = some (s1.callers.length + 1) →
        TakesFault (exec (.call (o :: os)) s) (.call (o :: os)) s .callDepthOverflow) ∧
      (∀ j : Nat, count.toNat ≤ 15 → s1.params.maxFrames ≠ some (s1.callers.length + 1) →
        j < count.toNat →
        (∀ i : Nat, i < j → (s1.mem.readWord (2 * (r.toNat : Int) + 1 + 2 * i)).isSome = true) →
        s1.mem.readWord (2 * (r.toNat : Int) + 1 + 2 * j) = none →
        TakesFault (exec (.call (o :: os)) s) (.call (o :: os)) s
          (.outOfBounds (2 * (r.toNat : Int) + 1 + 2 * j)))) ∧
    (∀ k, r = 0 → StoreFails s1 (endOf (.call (o :: os)) s) k →
      TakesFault (exec (.call (o :: os)) s) (.call (o :: os)) s k)

/-- `ret`, `rtrue` and `rfalse` complete: Return of the operand's value, resolved in the callee's frame,
of 1, and of 0. In the initial frame they take ReturnFromMain, and so does a branch (here jin's) that fires
there with offset 0 or 1; a caller's store byte that cannot be read, or names a variable of the caller that
cannot be written, is their fault (R204–R208, R260, R264). -/
def Obligations.ReturnInstructionsReturn : Prop :=
  (∀ (o : Operand) (s s1 : State) (x : Word), Resolves s o x s1 →
    (∀ t, Returns s1 x t → exec (.ret o) s = .next t) ∧
    (s.callers = [] → TakesFault (exec (.ret o) s) (.ret o) s .returnFromMain) ∧
    (∀ k, ReturnFails s1 k → TakesFault (exec (.ret o) s) (.ret o) s k)) ∧
  (∀ s t : State, (Returns s 1 t → exec .rtrue s = .next t) ∧
    (Returns s 0 t → exec .rfalse s = .next t) ∧
    (s.callers = [] → TakesFault (exec .rtrue s) .rtrue s .returnFromMain ∧
      TakesFault (exec .rfalse s) .rfalse s .returnFromMain) ∧
    (∀ k, ReturnFails s k → TakesFault (exec .rtrue s) .rtrue s k ∧
      TakesFault (exec .rfalse s) .rfalse s k)) ∧
  (∀ (form : Form2OP) (o1 o2 : Operand) (a b : Word) (g : GameObject) (s s1 s2 : State) (off after : Int),
    s.callers = [] → Resolves s o1 a s1 → Resolves s1 o2 b s2 → SeesObject s2 a g →
    BranchSuffix s2.mem (endOf (.jin form [o1, o2]) s) (decide (g.parent = b)) off after →
    (off = 0 ∨ off = 1) →
    TakesFault (exec (.jin form [o1, o2]) s) (.jin form [o1, o2]) s .returnFromMain)

/-- `quit` completes: Halted, Normal, DIAG_PC its start, and the rest of the state kept exactly (R209,
spec/60_exceptions.md R267). That "the rest" takes in DIAG_OPBYTE, DIAG_CLASS and DIAG_OPCODE, which R30
lists as written by a halt, is the model's reading of R267 (log entry 12). -/
def Obligations.QuitHaltsAndKeepsTheRest : Prop :=
  ∀ s : State, exec .quit s =
    .next { s with status := .halted, haltReason := .normal, diagPc := s.cur.pc }

/-! ## Object instructions -/

/-- `get_sibling` and `get_child` complete: the link is stored first, then the branch is taken on whether
it is not 0; `get_parent` completes: the parent is stored. A fault of the store suffix, and after the store
one of the branch suffix, is the instruction's fault (spec/42_objects.md R173–R175; R106–R109, R264). -/
def Obligations.ObjectLinksAreStored : Prop :=
  ∀ (o : Operand) (s s1 s2 t : State) (n : Word) (g : GameObject),
    Resolves s o n s1 → SeesObject s1 n g →
    (StoresAt s1 (endOf (.getSibling o) s) g.sibling s2 →
      Branches s2 (decide (g.sibling ≠ 0)) (endOf (.getSibling o) s + 1) t →
      exec (.getSibling o) s = .next t) ∧
    (StoresAt s1 (endOf (.getChild o) s) g.child s2 →
      Branches s2 (decide (g.child ≠ 0)) (endOf (.getChild o) s + 1) t →
      exec (.getChild o) s = .next t) ∧
    (StoresAt s1 (endOf (.getParent o) s) g.parent s2 →
      exec (.getParent o) s = .next (s2.withPc (endOf (.getParent o) s + 1))) ∧
    (∀ k, ∀ i ∈ [Instr.getSibling o, .getChild o, .getParent o], StoreFails s1 (endOf i s) k →
      TakesFault (exec i s) i s k) ∧
    (∀ k, StoresAt s1 (endOf (.getSibling o) s) g.sibling s2 →
      BranchFails s2 (decide (g.sibling ≠ 0)) (endOf (.getSibling o) s + 1) k →
      TakesFault (exec (.getSibling o) s) (.getSibling o) s k) ∧
    (∀ k, StoresAt s1 (endOf (.getChild o) s) g.child s2 →
      BranchFails s2 (decide (g.child ≠ 0)) (endOf (.getChild o) s + 1) k →
      TakesFault (exec (.getChild o) s) (.getChild o) s k)

/-- `jin` and `test_attr` complete: the branch is taken on whether the object's parent is the second
operand, and on the object's flag of that number; a fault of the branch suffix is their fault (R176, R177;
R107, R108, R264). -/
def Obligations.ObjectTestsBranch : Prop :=
  ∀ (form : Form2OP) (o1 o2 : Operand) (s s1 s2 t : State) (a b : Word) (g : GameObject),
    Resolves s o1 a s1 → Resolves s1 o2 b s2 → SeesObject s2 a g →
    (Branches s2 (decide (g.parent = b)) (endOf (.jin form [o1, o2]) s) t →
      exec (.jin form [o1, o2]) s = .next t) ∧
    (∀ x : Bool, g.attrs[b.toNat]? = some x →
      Branches s2 x (endOf (.testAttr form [o1, o2]) s) t →
      exec (.testAttr form [o1, o2]) s = .next t) ∧
    (∀ k, BranchFails s2 (decide (g.parent = b)) (endOf (.jin form [o1, o2]) s) k →
      TakesFault (exec (.jin form [o1, o2]) s) (.jin form [o1, o2]) s k) ∧
    (∀ (x : Bool) (k : FaultKind), g.attrs[b.toNat]? = some x →
      BranchFails s2 x (endOf (.testAttr form [o1, o2]) s) k →
      TakesFault (exec (.testAttr form [o1, o2]) s) (.testAttr form [o1, o2]) s k)

/-- `set_attr` and `clear_attr` complete for an object 1..N and an attribute below 32: that one flag is
set or cleared (R178, R179). -/
def Obligations.SetAndClearAttrWriteOneFlag : Prop :=
  ∀ (form : Form2OP) (o1 o2 : Operand) (s s1 s2 : State) (n a : Word) (g : GameObject),
    Resolves s o1 n s1 → Resolves s1 o2 a s2 → n ≠ 0 → s2.objs[n.toNat - 1]? = some g →
    a.toNat < 32 → ∀ x : Bool, ∃ g' : GameObject,
      (∀ j, j < 32 → g'.attrs[j]? = if j = a.toNat then some x else g.attrs[j]?) ∧
      { g' with attrs := g.attrs } = g ∧
      (x = true → exec (.setAttr form [o1, o2]) s = .next
        { s2 with objs := s2.objs.set (n.toNat - 1) g',
                  cur := { s2.cur with pc := endOf (.setAttr form [o1, o2]) s } }) ∧
      (x = false → exec (.clearAttr form [o1, o2]) s = .next
        { s2 with objs := s2.objs.set (n.toNat - 1) g',
                  cur := { s2.cur with pc := endOf (.clearAttr form [o1, o2]) s } })

/-- `insert_obj` completes for objects 1..N: the three assignments of the insert half, one after another,
and every other record as before (R170, R180). -/
def Obligations.InsertObjDoesTheInsertHalf : Prop :=
  ∀ (form : Form2OP) (o1 o2 : Operand) (s s1 s2 : State) (o d : Word) (go gd : GameObject),
    Resolves s o1 o s1 → Resolves s1 o2 d s2 → o ≠ 0 → d ≠ 0 →
    s2.objs[o.toNat - 1]? = some go → s2.objs[d.toNat - 1]? = some gd →
    ∃ os : List GameObject, exec (.insertObj form [o1, o2]) s = .next
        { s2 with objs := os, cur := { s2.cur with pc := endOf (.insertObj form [o1, o2]) s } } ∧
      os.length = s2.objs.length ∧
      (o ≠ d → os[o.toNat - 1]? = some { go with parent := d, sibling := gd.child } ∧
        os[d.toNat - 1]? = some { gd with child := o }) ∧
      (o = d → os[o.toNat - 1]? = some { go with parent := d, sibling := go.child, child := o }) ∧
      ∀ j, j ≠ o.toNat - 1 → j ≠ d.toNat - 1 → os[j]? = s2.objs[j]?

/-- InvalidObject comes before InvalidAttribute (R171–R180; spec/90_conflicts.md C7): an object number above
N always faults, in get_sibling, get_child and get_parent too, 0 faults where it would be written, and only
then an attribute of 32 or more does. -/
def Obligations.InvalidObjectBeforeInvalidAttribute : Prop :=
  (∀ (o : Operand) (s s1 : State) (n : Word), Resolves s o n s1 → s1.objs.length < n.toNat →
    ∀ i ∈ [Instr.getSibling o, .getChild o, .getParent o], TakesFault (exec i s) i s (.invalidObject n)) ∧
  (∀ (form : Form2OP) (o1 o2 : Operand) (s s1 s2 : State) (n a : Word),
    Resolves s o1 n s1 → Resolves s1 o2 a s2 →
    (s2.objs.length < n.toNat →
      ∀ i ∈ [Instr.testAttr form [o1, o2], .setAttr form [o1, o2], .clearAttr form [o1, o2],
        .insertObj form [o1, o2], .jin form [o1, o2]], TakesFault (exec i s) i s (.invalidObject n)) ∧
    (n = 0 → ∀ i ∈ [Instr.setAttr form [o1, o2], .clearAttr form [o1, o2], .insertObj form [o1, o2]],
      TakesFault (exec i s) i s (.invalidObject n)) ∧
    (n ≠ 0 → n.toNat ≤ s2.objs.length → (a = 0 ∨ s2.objs.length < a.toNat) →
      TakesFault (exec (.insertObj form [o1, o2]) s) (.insertObj form [o1, o2]) s (.invalidObject a)) ∧
    (n.toNat ≤ s2.objs.length → 32 ≤ a.toNat → TakesFault (exec (.testAttr form [o1, o2]) s)
      (.testAttr form [o1, o2]) s (.invalidAttribute a)) ∧
    (n ≠ 0 → n.toNat ≤ s2.objs.length → 32 ≤ a.toNat →
      ∀ i ∈ [Instr.setAttr form [o1, o2], .clearAttr form [o1, o2]],
        TakesFault (exec i s) i s (.invalidAttribute a)))

/-! ## Text and output -/

/-- Codes(t) of a terminated string gives its codes and the address after its last word; it fails only by a
word that cannot be read, after words with no end bit, so it never stops inside the image
(spec/41_text.md R130, R131). -/
def Obligations.CodesReadToTheEndBit : Prop :=
  (∀ (m : Memory) (p e : Int) (cs : List Code), PackedText m p cs e → m.codes p = .ok (cs, e)) ∧
  (∀ (m : Memory) (p a : Int), m.codes p = .error a →
    m.readWord a = none ∧ ∃ n : Nat, a = p + 2 * n ∧
      ∀ j : Nat, j < n → ∃ w, m.readWord (p + 2 * j) = some w ∧ w.getLsbD 15 = false)

/-- `print` completes on a terminated string: the decoded text goes to the sink in one call and the pc to
after the last word. A string with no end bit before the image ends takes OutOfBounds at the first word
that cannot be read (R144, R130). -/
def Obligations.PrintEmitsDecodedText : Prop :=
  ∀ s : State,
    (∀ (cs : List Code) (e : Int), PackedText s.mem (s.cur.pc + 1) cs e →
      exec .print s = .next { s with
        sink := s.sink ++ [.print (decodeCodes s.abbrevs.toList cs)], cur := { s.cur with pc := e } }) ∧
    (∀ e : Int, TextRunsOut s.mem (s.cur.pc + 1) e →
      TakesFault (exec .print s) .print s (.outOfBounds e))

/-- The stream-start escape (R135, R140): at least 5 codes beginning 5, 6 emit ZSCII_OUT of the next two
and go on from the fifth in A0 with nothing pending; no other stream is changed by it, and elsewhere
the pair 5, 6 emits CTRL_GLYPH. -/
def Obligations.EscapeOnlyAtStreamStart : Prop :=
  (∀ (tbl : List Text) (hi lo c : Code) (rest : List Code),
    decodeCodes tbl (5 :: 6 :: hi :: lo :: c :: rest) =
      zsciiOut (BitVec.ofNat 16 (32 * hi.toNat + lo.toNat)) ++ decodeLoop tbl textStart (c :: rest)) ∧
  (∀ (tbl : List Text) (cs : List Code), cs.length < 5 ∨ cs[0]? ≠ some 5 ∨ cs[1]? ≠ some 6 →
    decodeCodes tbl cs = decodeLoop tbl textStart cs) ∧
  (textStart.alph = .a0 ∧ textStart.pending = false) ∧
  (∀ (tbl : List Text) (alph : Alphabet) (off : Nat) (cs : List Code),
    decodeLoop tbl ⟨alph, false, off⟩ (5 :: 6 :: cs) =
      Config.ctrlGlyph ++ decodeLoop tbl ⟨.a0, false, off⟩ cs)

/-- R136's loop, case by case: the abbreviation index first, then space, abbreviation codes, the two
shifts for the next character only, newline, CTRL_GLYPH, and the alphabet's character. -/
def Obligations.TextLoopFollowsEachCase : Prop :=
  ∀ (tbl : List Text) (alph : Alphabet) (off : Nat) (c : Code) (cs : List Code),
    (decodeLoop tbl ⟨alph, true, off⟩ (c :: cs) =
      tbl.getD (off + c.toNat) [] ++ decodeLoop tbl ⟨.a0, false, off⟩ cs) ∧
    (decodeLoop tbl ⟨alph, false, off⟩ (0 :: cs) = ' ' :: decodeLoop tbl ⟨.a0, false, off⟩ cs) ∧
    (1 ≤ c.toNat → c.toNat ≤ 3 → decodeLoop tbl ⟨alph, false, off⟩ (c :: cs) =
      decodeLoop tbl ⟨.a2, true, 32 * (c.toNat - 1)⟩ cs) ∧
    (decodeLoop tbl ⟨alph, false, off⟩ (4 :: cs) = decodeLoop tbl ⟨.a1, false, off⟩ cs) ∧
    (decodeLoop tbl ⟨alph, false, off⟩ (5 :: cs) = decodeLoop tbl ⟨.a2, false, off⟩ cs) ∧
    (decodeLoop tbl ⟨.a2, false, off⟩ (7 :: cs) = '\n' :: decodeLoop tbl ⟨.a0, false, off⟩ cs) ∧
    (decodeLoop tbl ⟨.a2, false, off⟩ (6 :: cs) =
      Config.ctrlGlyph ++ decodeLoop tbl ⟨.a0, false, off⟩ cs) ∧
    (6 ≤ c.toNat → (alph = .a2 → 8 ≤ c.toNat) →
      ∃ ch, (alphabetTable alph)[c.toNat]? = some (some ch) ∧
        decodeLoop tbl ⟨alph, false, off⟩ (c :: cs) = ch :: decodeLoop tbl ⟨.a0, false, off⟩ cs)

/-- Shifts left pending at the end of a string emit nothing, however many fill it (R138). -/
def Obligations.TrailingShiftsEmitNothing : Prop :=
  ∀ (tbl : List Text) (alph : Alphabet) (off : Nat) (cs : List Code),
    (∀ c ∈ cs, c = 4 ∨ c = 5) → decodeLoop tbl ⟨alph, false, off⟩ cs = []

/-- A string with no code 1, 2 or 3 does not depend on the abbreviation table; in particular it decodes
alike while the table loads (R136, R137, R143). -/
def Obligations.AbbreviationFreeTextIgnoresTable : Prop :=
  ∀ (tbl tbl' : List Text) (cs : List Code), (∀ c ∈ cs, c = 0 ∨ 4 ≤ c.toNat) →
    decodeCodes tbl cs = decodeCodes tbl' cs

/-- The three alphabet tables entry by entry (R133): 32 entries each, the space at 0, control entries at
1–5 and in A2 at 6 and 7, the letters from 6 in A0 and A1, and in A2 the digits from 8 and then the
punctuation. -/
def Obligations.AlphabetsHoldTheSpecStrings : Prop :=
  (∀ alph, (alphabetTable alph).length = 32 ∧ (alphabetTable alph)[0]? = some (some ' ') ∧
    ∀ k, 1 ≤ k → k ≤ 5 → (alphabetTable alph)[k]? = some none) ∧
  (∀ k, k < 26 → (alphabetTable .a0)[6 + k]? = some (some (Char.ofNat (97 + k))) ∧
    (alphabetTable .a1)[6 + k]? = some (some (Char.ofNat (65 + k)))) ∧
  (alphabetTable .a2)[6]? = some none ∧ (alphabetTable .a2)[7]? = some none ∧
  (∀ k, k < 10 → (alphabetTable .a2)[8 + k]? = some (some (Char.ofNat (48 + k)))) ∧
  (alphabetTable .a2).drop 18 = [46, 44, 33, 63, 95, 35, 39, 34, 47, 92, 45, 58, 40, 41].map
    (fun n => some (Char.ofNat n))

/-- `print_num`, `print_char` and `new_line` complete: the sink gets the signed value's decimal form; the
code's ZSCII_OUT, which for 32–126 is the ASCII character; one newLine call (R140, R146–R148). -/
def Obligations.NumberCharacterAndNewlineReachTheSink : Prop :=
  (∀ (o : Operand) (s s1 : State) (v : Word), Resolves s o v s1 →
    (∃ tx : Text, IsDecimal v.toInt tx ∧ exec (.printNum [o]) s = .next { s1 with
      sink := s1.sink ++ [.print tx], cur := { s1.cur with pc := endOf (.printNum [o]) s } }) ∧
    exec (.printChar [o]) s = .next { s1 with
      sink := s1.sink ++ [.print (zsciiOut v)], cur := { s1.cur with pc := endOf (.printChar [o]) s } } ∧
    (32 ≤ v.toNat → v.toNat ≤ 126 → ∃ c : Char, zsciiOut v = [c] ∧ c.toNat = v.toNat)) ∧
  (∀ s : State, exec .newLine s = .next { s with
    sink := s.sink ++ [.newLine], cur := { s.cur with pc := s.cur.pc + 1 } })

/-- `print_obj` completes: the sink gets the object's name, the empty one for object 0; an object number
above N faults (R145, R171). -/
def Obligations.PrintObjEmitsName : Prop :=
  ∀ (o : Operand) (s s1 : State) (n : Word), Resolves s o n s1 →
    (∀ g, SeesObject s1 n g → exec (.printObj o) s = .next { s1 with
      sink := s1.sink ++ [.print g.name], cur := { s1.cur with pc := endOf (.printObj o) s } }) ∧
    (s1.objs.length < n.toNat → TakesFault (exec (.printObj o) s) (.printObj o) s (.invalidObject n))

/-! ## Faults -/

/-- Every key R84 lists takes UnimplementedOpcode, with DIAG_* set, whatever its operands; the extended form
takes DecodeError, with the raw byte 0xBE and class EXT recorded (R76, R84, R101, R103). The constructors
are the seventy whose names begin unimpl (unimpl2OP_0 to unimpl2OP_31, unimpl1OP_0 to unimpl1OP_15,
unimpl0OP_3 to unimpl0OP_15, unimplVAR_1 to unimplVAR_31), and extendedForm. -/
def Obligations.OpcodesWithoutHandlerFault : Prop :=
  (∀ (i : Instr) (s : State) (n : BitVec 5), i.shape.number = some n →
    unimplementedKey i.shape.cls n.toNat = true → TakesFault (exec i s) i s .unimplementedOpcode) ∧
  (∀ s : State, TakesFault (exec .extendedForm s) .extendedForm s .decodeError ∧
    encode .extendedForm = [0xBE] ∧ Instr.extendedForm.shape.cls = .ext ∧
    Instr.extendedForm.shape.number = none)

/-- A wrong operand count takes InvalidOperandCount, whatever the operands are, so before any of them is
resolved (R85, R104). -/
def Obligations.WrongOperandCountFaults : Prop :=
  ∀ (form : Form2OP) (ops : List Operand) (s : State),
    (ops.length ≠ 2 → ∀ i ∈ [Instr.jin form ops, .testAttr form ops, .setAttr form ops,
        .clearAttr form ops, .store form ops, .insertObj form ops, .add form ops, .sub form ops,
        .div form ops, .mod form ops],
      TakesFault (exec i s) i s (.invalidOperandCount ops.length)) ∧
    (ops.length ≠ 1 → ∀ i ∈ [Instr.printChar ops, .printNum ops],
      TakesFault (exec i s) i s (.invalidOperandCount ops.length)) ∧
    (ops.length = 0 ∨ 4 < ops.length →
      TakesFault (exec (.call ops) s) (.call ops) s (.invalidOperandCount ops.length))

/-- A fault of resolving an operand is the instruction's fault, an earlier operand's before a later one's,
and before any check of the handler; for a call that is any of its one to four operands (R105, R110, R201,
R264). -/
def Obligations.OperandFaultsComeFirst : Prop :=
  (∀ (form : Form2OP) (o1 o2 : Operand) (s : State) (k : FaultKind),
    (ResolveFails s o1 k ∨ (∃ x s1, Resolves s o1 x s1 ∧ ResolveFails s1 o2 k) →
      ∀ i ∈ [Instr.jin form [o1, o2], .testAttr form [o1, o2], .setAttr form [o1, o2],
        .clearAttr form [o1, o2], .store form [o1, o2], .insertObj form [o1, o2], .add form [o1, o2],
        .sub form [o1, o2], .div form [o1, o2], .mod form [o1, o2]],
        TakesFault (exec i s) i s k) ∧
    (ResolveFails s o1 k → ∀ i ∈ [Instr.getSibling o1, .getChild o1, .getParent o1, .inc o1, .dec o1,
        .printObj o1, .ret o1, .printChar [o1], .printNum [o1]],
        TakesFault (exec i s) i s k)) ∧
  (∀ (before rest : List Operand) (o : Operand) (xs : List Word) (s s1 : State) (k : FaultKind),
    (before ++ o :: rest).length ≤ 4 → ResolvesAll s before xs s1 → ResolveFails s1 o k →
    TakesFault (exec (.call (before ++ o :: rest)) s) (.call (before ++ o :: rest)) s k)

/-! ## Frames: what an instruction leaves unchanged -/

/-- The frame of the instructions that store through a store byte and do not branch: add, sub, div, mod
and get_parent. Only the variable the store byte names, the evaluation stack and the pc change (R37). -/
def Obligations.StoreInstructionsFrame : Prop :=
  ∀ (form : Form2OP) (ops : List Operand) (op : Operand) (i : Instr) (s t : State) (v : Byte),
    i ∈ [Instr.add form ops, .sub form ops, .div form ops, .mod form ops, .getParent op] →
    exec i s = .next t → t.faulted = false → s.mem.readByte (endOf i s) = some v →
    ChangesOnlyVariable v.toNat s t ∧ t.cur.pc = endOf i s + 1

/-- The frame of the instructions that name a variable by reference: store, inc and dec. Only the variable
their first operand's value names, the evaluation stack and the pc change (R37, R230). -/
def Obligations.ByReferenceInstructionsFrame : Prop :=
  ∀ (form : Form2OP) (o o2 : Operand) (i : Instr) (s s1 t : State) (v : Word),
    i ∈ [Instr.store form [o, o2], .inc o, .dec o] → Resolves s o v s1 →
    exec i s = .next t → t.faulted = false →
    ChangesOnlyVariable v.toNat s t ∧ t.cur.pc = endOf i s

/-- The frame of the instructions with no destination register: print, print_obj, print_num, print_char and
new_line write the sink only, set_attr, clear_attr and insert_obj the ObjectTable only; every local and
global, every caller and every byte of memory is as before, and the stack only loses what operands pop
(R37, R144–R148, R178–R180). -/
def Obligations.NoDestinationInstructionsFrame : Prop :=
  ∀ (form : Form2OP) (ops : List Operand) (op : Operand) (i : Instr) (s t : State),
    exec i s = .next t → t.faulted = false →
    (i ∈ [Instr.print, .printObj op, .printNum ops, .printChar ops, .newLine] →
      t = { s with sink := t.sink, cur := { s.cur with pc := t.cur.pc, stack := t.cur.stack } } ∧
      t.cur.stack <:+ s.cur.stack ∧ (∃ c, t.sink = s.sink ++ [c]) ∧
      ∀ a, t.mem.readByte a = s.mem.readByte a) ∧
    (i ∈ [Instr.setAttr form ops, .clearAttr form ops, .insertObj form ops] →
      t = { s with objs := t.objs, cur := { s.cur with pc := t.cur.pc, stack := t.cur.stack } } ∧
      t.cur.stack <:+ s.cur.stack ∧ t.cur.pc = endOf i s ∧ t.objs.length = s.objs.length ∧
      ∀ a, t.mem.readByte a = s.mem.readByte a)

/-- The frame of the branch instructions where they do not return: jin and test_attr change the pc and what
operands pop, get_sibling and get_child also the variable their store byte names (R37, R108, R173–R177). -/
def Obligations.BranchInstructionsFrame : Prop :=
  ∀ (form : Form2OP) (ops : List Operand) (op : Operand) (i : Instr) (s t : State),
    exec i s = .next t → t.faulted = false → t.callers = s.callers →
    (i ∈ [Instr.jin form ops, .testAttr form ops] →
      t = { s with cur := { s.cur with pc := t.cur.pc, stack := t.cur.stack } } ∧
      t.cur.stack <:+ s.cur.stack ∧ ∀ a, t.mem.readByte a = s.mem.readByte a) ∧
    (∀ v, i ∈ [Instr.getSibling op, .getChild op] → s.mem.readByte (endOf i s) = some v →
      ChangesOnlyVariable v.toNat s t)

/-- The frame of calls and returns. A call of a routine changes the frames only, the caller keeping its
locals and what the operands leave of its stack; a call to nothing changes the variable its store byte
names. A return, by ret, rtrue, rfalse or a branch of jin or test_attr, drops the callee's frame, and in
the caller's changes only the pc and the variable the caller's store byte names; a return by a branch of
get_sibling or get_child has first stored its link, which outlives the callee only in the global its own
store byte may name (R37, R109, R201–R204, R208). -/
def Obligations.CallAndReturnFrame : Prop :=
  ∀ (form : Form2OP) (ops : List Operand) (op : Operand) (i : Instr) (s t : State),
    exec i s = .next t → t.faulted = false →
    (i = .call ops → t.callers ≠ s.callers → ∃ k, k <:+ s.cur.stack ∧
      t = { s with
        cur := t.cur, callers := { s.cur with pc := endOf i s, stack := k } :: s.callers } ∧
      ∀ a, t.mem.readByte a = s.mem.readByte a) ∧
    (∀ v, i = .call ops → t.callers = s.callers → s.mem.readByte (endOf i s) = some v →
      ChangesOnlyVariable v.toNat s t ∧ t.cur.pc = endOf i s + 1) ∧
    (∀ f v, i ∈ [Instr.ret op, .rtrue, .rfalse, .jin form ops, .testAttr form ops] →
      s.callers = f :: t.callers → s.mem.readByte f.pc = some v →
      ChangesOnlyVariable v.toNat { s with cur := f, callers := t.callers } t ∧
      t.cur.pc = f.pc + 1) ∧
    (∀ f v w, i ∈ [Instr.getSibling op, .getChild op] → s.callers = f :: t.callers →
      s.mem.readByte f.pc = some v → s.mem.readByte (endOf i s) = some w →
      ∃ g : Vector Word 240, (∀ j, j < 240 → j + 16 ≠ w.toNat → g[j]? = s.globals[j]?) ∧
        ChangesOnlyVariable v.toNat { s with globals := g, cur := f, callers := t.callers } t ∧
        t.cur.pc = f.pc + 1)

/-- Which instructions may change what, for every instruction and every next state that has not faulted:
only set_attr, clear_attr and insert_obj the ObjectTable, only the five output instructions the sink, only
quit the status registers, only call and what can return the callers (R20, R25, R30, R37, R267, R270). That
quit too leaves DIAG_OPBYTE, DIAG_CLASS and DIAG_OPCODE, which R30 lists as written by a halt, is the
model's reading of R267 (log entry 12). -/
def Obligations.OnlyNamedInstructionsChangeEachPart : Prop :=
  ∀ (i : Instr) (s t : State), exec i s = .next t → t.faulted = false →
    (t.objs ≠ s.objs → ∃ form ops, i = .setAttr form ops ∨ i = .clearAttr form ops ∨
      i = .insertObj form ops) ∧
    (t.sink ≠ s.sink → i = .print ∨ i = .newLine ∨ (∃ o, i = .printObj o) ∨
      ∃ ops, i = .printNum ops ∨ i = .printChar ops) ∧
    ((t.status ≠ s.status ∨ t.haltReason ≠ s.haltReason ∨ t.diagPc ≠ s.diagPc) → i = .quit) ∧
    (t.diagOpbyte = s.diagOpbyte ∧ t.diagClass = s.diagClass ∧ t.diagOpcode = s.diagOpcode) ∧
    (t.callers ≠ s.callers → i = .rtrue ∨ i = .rfalse ∨ (∃ ops, i = .call ops) ∨
      (∃ o, i = .ret o ∨ i = .getSibling o ∨ i = .getChild o) ∨
      ∃ form ops, i = .jin form ops ∨ i = .testAttr form ops)

/-! ## Whole-machine rules -/

/-- Every step keeps the invariant: STATUS agrees with HALT_REASON, and while no fault has happened the
image stays in canonical form, there are at most 255 objects, at most MAX_FRAMES frames and no stack deeper
than MAX_EVAL_STACK (R24, R26, R30, R170). -/
def Obligations.EveryStepKeepsTheBounds : Prop :=
  ∀ s t : State, s.Inv → step s = .next t → t.Inv

/-- The state after reset has the invariant. The reset state is Reset of the blank image, the model's choice
(log entry 4). -/
def Obligations.ResetStateHasTheBounds : Prop := State.reset.Inv ∧ State.reset.linksInTable

/-- No step that does not fault changes the image, the header registers, the abbreviation table or the
parameters, nor adds, removes or renames an object; and it leaves the sink's history as it was or adds one
call to its end (R30, R31, R54, R170, R270, R300). -/
def Obligations.StepsNeverChangeImageOrSnapshots : Prop :=
  ∀ s t : State, step s = .next t → t.faulted = false →
    t.mem = s.mem ∧ t.hdr = s.hdr ∧ t.abbrevs = s.abbrevs ∧ t.params = s.params ∧
    t.objs.map (·.name) = s.objs.map (·.name) ∧ (∀ a, t.mem.readByte a = s.mem.readByte a) ∧
    (t.sink = s.sink ∨ ∃ c, t.sink = s.sink ++ [c])

/-- Every step keeps every link of the ObjectTable inside the table: 0 or the number of an object (R170,
R171, R180). -/
def Obligations.StepsKeepObjectLinksInTable : Prop :=
  ∀ s t : State, s.linksInTable → step s = .next t → t.faulted = false → t.linksInTable

/-- Every step that does not fault moves the call stack by at most one frame: it leaves the callers alone,
or a call puts the current frame under a new one with its locals untouched, or a return pops to the nearest
caller, one byte past its store byte; deeper frames never change (R25, R26, R203, R204). -/
def Obligations.CallStackMovesByOneFrame : Prop :=
  ∀ s t : State, step s = .next t → t.faulted = false →
    t.callers = s.callers ∨
    (∃ c, t.callers = c :: s.callers ∧ c.locals = s.cur.locals ∧ c.stack <:+ s.cur.stack ∧
      t.cur.stack = []) ∨
    (∃ f, s.callers = f :: t.callers ∧ t.cur.pc = f.pc + 1)

/-- A run stops only by quit or by a fault: a running block's next state is Halted exactly when its
HALT_REASON is Normal or a fault, Normal only by quit (of a step: the byte 0xBA at the pc), and DIAG_PC is
then the address the step fetched at, a fault of the fetch itself included (R266, R267, R273; R209,
R261). -/
def Obligations.OnlyQuitEndsARunNormally : Prop :=
  (∀ (i : Instr) (s t : State), s.statusAgrees → s.status = .running → exec i s = .next t →
    (t.haltReason = .normal ↔ i = .quit) ∧ (t.status = .halted ↔ t.haltReason ≠ .none) ∧
    (t.haltReason ≠ .none → t.diagPc = s.cur.pc)) ∧
  (∀ s t : State, s.statusAgrees → step s = .next t →
    (t.haltReason = .normal ↔ s.mem.readByte s.cur.pc = some 0xBA) ∧
    (t.status = .halted ↔ t.haltReason ≠ .none) ∧ (t.haltReason ≠ .none → t.diagPc = s.cur.pc))

/-- No instruction reads a header register: with any other header registers the run is the same (R30). -/
def Obligations.HeaderRegistersAreNeverRead : Prop :=
  ∀ (i : Instr) (s t : State) (h : Header), exec i s = .next t → t.faulted = false →
    exec i { s with hdr := h } = .next { t with hdr := h }

/-- GlobalStore cell 239 "can be loaded at reset but never read or written by an instruction" (R22). -/
def Obligations.GlobalCell239IsOutOfReach : Prop :=
  ∀ (i : Instr) (s t : State) (x : Word), exec i s = .next t → t.faulted = false →
    t.globals[239]? = s.globals[239]? ∧
    exec i (s.withGlobal 239 x) = .next (t.withGlobal 239 x)

/-! ## Reset -/

/-- A reset succeeds when the image holds the header, the 240 globals and the 96 abbreviation entries with
their strings and the external loads succeed (R297); and a reset that succeeds leaves what R33 tabulates:
the image, the header words, the globals and the abbreviations read from it, one initial frame at
HDR_INITPC, Running, no reason, OBJTAB and an empty sink (R33, R290–R295; spec/41_text.md R142, R143). -/
def Obligations.SuccessfulResetLoadsTheTables : Prop :=
  (∀ (p : Params) (m : Memory) (os : List GameObject), 0x1A ≤ m.size → GlobalsReadable m →
    AbbrevsReadable m → (boot p m (some os) true).status = .running) ∧
  (∀ (p : Params) (m : Memory) (os : List GameObject) (s : State),
    s = boot p m (some os) true → s.status = .running →
    s.mem = m ∧ m.readByte 0 = some s.hdr.version ∧ m.readWord 0x06 = some s.hdr.initPc ∧
    m.readWord 0x08 = some s.hdr.dict ∧ m.readWord 0x0A = some s.hdr.objTab ∧
    m.readWord 0x0C = some s.hdr.globalsTab ∧ m.readWord 0x18 = some s.hdr.abbrevTab ∧
    (∀ i : Nat, i < 240 → m.readWord ((s.hdr.globalsTab.toNat : Int) + 2 * i) = s.globals[i]?) ∧
    (∀ i : Nat, i < 96 → ∃ a cs e, m.readWord ((s.hdr.abbrevTab.toNat : Int) + 2 * i) = some a ∧
      PackedText m (2 * (a.toNat : Int)) cs e ∧ s.abbrevs[i]? = some (decodeCodes [] cs)) ∧
    s.callers = [] ∧ s.cur.pc = s.hdr.initPc.toNat ∧ s.cur.stack = [] ∧
    (∀ j, j < 15 → s.cur.locals[j]? = some none) ∧
    s.haltReason = .none ∧ s.objs = os ∧ s.sink = [] ∧ s.params = p)

/-- A reset that fails leaves Halted and InitError, and no step follows. It fails, by the first of these in
R290's order (the spec's own choice, D21; log entry 17) and naming that table: an image shorter than 0x1A
bytes, a global word that cannot be read, an abbreviation entry or string that cannot be read, the external
ObjectTable's load, the Dictionary's (R260, R268, R290–R294, R296). -/
def Obligations.FailedResetIsInitError : Prop :=
  ∀ (p : Params) (m : Memory) (objs : Option (List GameObject)) (dictOk : Bool),
    (m.size < 0x1A → (boot p m objs dictOk).haltReason = .fault (.initError .header)) ∧
    (0x1A ≤ m.size → ¬ GlobalsReadable m →
      (boot p m objs dictOk).haltReason = .fault (.initError .globals)) ∧
    (0x1A ≤ m.size → GlobalsReadable m → ¬ AbbrevsReadable m →
      (boot p m objs dictOk).haltReason = .fault (.initError .abbreviations)) ∧
    (0x1A ≤ m.size → GlobalsReadable m → AbbrevsReadable m → objs = none →
      (boot p m objs dictOk).haltReason = .fault (.initError .objectTable)) ∧
    (0x1A ≤ m.size → GlobalsReadable m → AbbrevsReadable m → objs ≠ none → dictOk = false →
      (boot p m objs dictOk).haltReason = .fault (.initError .dictionary)) ∧
    (m.size < 0x1A ∨ ¬ GlobalsReadable m ∨ ¬ AbbrevsReadable m ∨ objs = none ∨ dictOk = false →
      (boot p m objs dictOk).status = .halted) ∧
    ((boot p m objs dictOk).status = .halted →
      (∃ t, (boot p m objs dictOk).haltReason = .fault (.initError t)) ∧
      step (boot p m objs dictOk) = .fault .halted)
end

