-- ==== Sys2Proof/Laws/PerInstr.lean ====
section
/-! SUPPORT. The key table, constructor by constructor: the decoder's tables (instr2OP, instr1OP,
instr0OP, instrVAR) give back the constructor whose key Instr.shape names, the key is one its form can
hold, and the constructor's fields are well formed as the form's are (spec/30_encoding.md R78, R83,
R84). -/

namespace Sys2Proof.Laws.KeyTable

/-- The instruction of a key with its form and operands, through the decoder's tables. -/
def ofShape : Shape → Instr
  | .two n form ops => instr2OP n.toNat form ops
  | .one n op => instr1OP n.toNat op
  | .zero n => instr0OP n.toNat
  | .vari n ops => instrVAR n.toNat ops
  | .extended => .extendedForm

/-- The opcode number is one the form can hold: four bits in the short form, and 0OP:14 is the extended
form (R71, R74). -/
def fits : Shape → Bool
  | .two _ _ _ | .vari _ _ | .extended => true
  | .one n _ => decide (n.toNat < 16)
  | .zero n => decide (n.toNat < 16) && decide (n.toNat ≠ 14)

/-- The form's own check of the operands. -/
def wfShape : Shape → Bool
  | .two _ form ops => wf2OP form ops
  | .one _ op => op.isPresent
  | .zero _ | .extended => true
  | .vari _ ops => wfVariable ops

/-- The statement of the family: about the instruction as syntax. -/
def Statement (i : Instr) : Prop :=
  ofShape i.shape = i ∧ fits i.shape = true ∧ i.wf = wfShape i.shape

theorem jin (form : Form2OP) (ops : List Operand) : Statement (.jin form ops) := ⟨rfl, rfl, rfl⟩
theorem testAttr (form : Form2OP) (ops : List Operand) : Statement (.testAttr form ops) := ⟨rfl, rfl, rfl⟩
theorem setAttr (form : Form2OP) (ops : List Operand) : Statement (.setAttr form ops) := ⟨rfl, rfl, rfl⟩
theorem clearAttr (form : Form2OP) (ops : List Operand) : Statement (.clearAttr form ops) := ⟨rfl, rfl, rfl⟩
theorem store (form : Form2OP) (ops : List Operand) : Statement (.store form ops) := ⟨rfl, rfl, rfl⟩
theorem insertObj (form : Form2OP) (ops : List Operand) : Statement (.insertObj form ops) := ⟨rfl, rfl, rfl⟩
theorem add (form : Form2OP) (ops : List Operand) : Statement (.add form ops) := ⟨rfl, rfl, rfl⟩
theorem sub (form : Form2OP) (ops : List Operand) : Statement (.sub form ops) := ⟨rfl, rfl, rfl⟩
theorem div (form : Form2OP) (ops : List Operand) : Statement (.div form ops) := ⟨rfl, rfl, rfl⟩
theorem mod (form : Form2OP) (ops : List Operand) : Statement (.mod form ops) := ⟨rfl, rfl, rfl⟩
theorem getSibling (op : Operand) : Statement (.getSibling op) := ⟨rfl, rfl, rfl⟩
theorem getChild (op : Operand) : Statement (.getChild op) := ⟨rfl, rfl, rfl⟩
theorem getParent (op : Operand) : Statement (.getParent op) := ⟨rfl, rfl, rfl⟩
theorem inc (op : Operand) : Statement (.inc op) := ⟨rfl, rfl, rfl⟩
theorem dec (op : Operand) : Statement (.dec op) := ⟨rfl, rfl, rfl⟩
theorem printObj (op : Operand) : Statement (.printObj op) := ⟨rfl, rfl, rfl⟩
theorem ret (op : Operand) : Statement (.ret op) := ⟨rfl, rfl, rfl⟩
theorem rtrue : Statement .rtrue := ⟨rfl, rfl, rfl⟩
theorem rfalse : Statement .rfalse := ⟨rfl, rfl, rfl⟩
theorem print : Statement .print := ⟨rfl, rfl, rfl⟩
theorem quit : Statement .quit := ⟨rfl, rfl, rfl⟩
theorem newLine : Statement .newLine := ⟨rfl, rfl, rfl⟩
theorem call (ops : List Operand) : Statement (.call ops) := ⟨rfl, rfl, rfl⟩
theorem printChar (ops : List Operand) : Statement (.printChar ops) := ⟨rfl, rfl, rfl⟩
theorem printNum (ops : List Operand) : Statement (.printNum ops) := ⟨rfl, rfl, rfl⟩
theorem extendedForm : Statement .extendedForm := ⟨rfl, rfl, rfl⟩
theorem unimpl2OP_0 (form : Form2OP) (ops : List Operand) : Statement (.unimpl2OP_0 form ops) := ⟨rfl, rfl, rfl⟩
theorem unimpl2OP_1 (form : Form2OP) (ops : List Operand) : Statement (.unimpl2OP_1 form ops) := ⟨rfl, rfl, rfl⟩
theorem unimpl2OP_2 (form : Form2OP) (ops : List Operand) : Statement (.unimpl2OP_2 form ops) := ⟨rfl, rfl, rfl⟩
theorem unimpl2OP_3 (form : Form2OP) (ops : List Operand) : Statement (.unimpl2OP_3 form ops) := ⟨rfl, rfl, rfl⟩
theorem unimpl2OP_4 (form : Form2OP) (ops : List Operand) : Statement (.unimpl2OP_4 form ops) := ⟨rfl, rfl, rfl⟩
theorem unimpl2OP_5 (form : Form2OP) (ops : List Operand) : Statement (.unimpl2OP_5 form ops) := ⟨rfl, rfl, rfl⟩
theorem unimpl2OP_7 (form : Form2OP) (ops : List Operand) : Statement (.unimpl2OP_7 form ops) := ⟨rfl, rfl, rfl⟩
theorem unimpl2OP_8 (form : Form2OP) (ops : List Operand) : Statement (.unimpl2OP_8 form ops) := ⟨rfl, rfl, rfl⟩
theorem unimpl2OP_9 (form : Form2OP) (ops : List Operand) : Statement (.unimpl2OP_9 form ops) := ⟨rfl, rfl, rfl⟩
theorem unimpl2OP_15 (form : Form2OP) (ops : List Operand) : Statement (.unimpl2OP_15 form ops) := ⟨rfl, rfl, rfl⟩
theorem unimpl2OP_16 (form : Form2OP) (ops : List Operand) : Statement (.unimpl2OP_16 form ops) := ⟨rfl, rfl, rfl⟩
theorem unimpl2OP_17 (form : Form2OP) (ops : List Operand) : Statement (.unimpl2OP_17 form ops) := ⟨rfl, rfl, rfl⟩
theorem unimpl2OP_18 (form : Form2OP) (ops : List Operand) : Statement (.unimpl2OP_18 form ops) := ⟨rfl, rfl, rfl⟩
theorem unimpl2OP_19 (form : Form2OP) (ops : List Operand) : Statement (.unimpl2OP_19 form ops) := ⟨rfl, rfl, rfl⟩
theorem unimpl2OP_22 (form : Form2OP) (ops : List Operand) : Statement (.unimpl2OP_22 form ops) := ⟨rfl, rfl, rfl⟩
theorem unimpl2OP_25 (form : Form2OP) (ops : List Operand) : Statement (.unimpl2OP_25 form ops) := ⟨rfl, rfl, rfl⟩
theorem unimpl2OP_26 (form : Form2OP) (ops : List Operand) : Statement (.unimpl2OP_26 form ops) := ⟨rfl, rfl, rfl⟩
theorem unimpl2OP_27 (form : Form2OP) (ops : List Operand) : Statement (.unimpl2OP_27 form ops) := ⟨rfl, rfl, rfl⟩
theorem unimpl2OP_28 (form : Form2OP) (ops : List Operand) : Statement (.unimpl2OP_28 form ops) := ⟨rfl, rfl, rfl⟩
theorem unimpl2OP_29 (form : Form2OP) (ops : List Operand) : Statement (.unimpl2OP_29 form ops) := ⟨rfl, rfl, rfl⟩
theorem unimpl2OP_30 (form : Form2OP) (ops : List Operand) : Statement (.unimpl2OP_30 form ops) := ⟨rfl, rfl, rfl⟩
theorem unimpl2OP_31 (form : Form2OP) (ops : List Operand) : Statement (.unimpl2OP_31 form ops) := ⟨rfl, rfl, rfl⟩
theorem unimpl1OP_0 (op : Operand) : Statement (.unimpl1OP_0 op) := ⟨rfl, rfl, rfl⟩
theorem unimpl1OP_4 (op : Operand) : Statement (.unimpl1OP_4 op) := ⟨rfl, rfl, rfl⟩
theorem unimpl1OP_7 (op : Operand) : Statement (.unimpl1OP_7 op) := ⟨rfl, rfl, rfl⟩
theorem unimpl1OP_8 (op : Operand) : Statement (.unimpl1OP_8 op) := ⟨rfl, rfl, rfl⟩
theorem unimpl1OP_9 (op : Operand) : Statement (.unimpl1OP_9 op) := ⟨rfl, rfl, rfl⟩
theorem unimpl1OP_12 (op : Operand) : Statement (.unimpl1OP_12 op) := ⟨rfl, rfl, rfl⟩
theorem unimpl1OP_13 (op : Operand) : Statement (.unimpl1OP_13 op) := ⟨rfl, rfl, rfl⟩
theorem unimpl1OP_14 (op : Operand) : Statement (.unimpl1OP_14 op) := ⟨rfl, rfl, rfl⟩
theorem unimpl1OP_15 (op : Operand) : Statement (.unimpl1OP_15 op) := ⟨rfl, rfl, rfl⟩
theorem unimpl0OP_3 : Statement .unimpl0OP_3 := ⟨rfl, rfl, rfl⟩
theorem unimpl0OP_4 : Statement .unimpl0OP_4 := ⟨rfl, rfl, rfl⟩
theorem unimpl0OP_5 : Statement .unimpl0OP_5 := ⟨rfl, rfl, rfl⟩
theorem unimpl0OP_6 : Statement .unimpl0OP_6 := ⟨rfl, rfl, rfl⟩
theorem unimpl0OP_7 : Statement .unimpl0OP_7 := ⟨rfl, rfl, rfl⟩
theorem unimpl0OP_8 : Statement .unimpl0OP_8 := ⟨rfl, rfl, rfl⟩
theorem unimpl0OP_9 : Statement .unimpl0OP_9 := ⟨rfl, rfl, rfl⟩
theorem unimpl0OP_12 : Statement .unimpl0OP_12 := ⟨rfl, rfl, rfl⟩
theorem unimpl0OP_13 : Statement .unimpl0OP_13 := ⟨rfl, rfl, rfl⟩
theorem unimpl0OP_15 : Statement .unimpl0OP_15 := ⟨rfl, rfl, rfl⟩
theorem unimplVAR_1 (ops : List Operand) : Statement (.unimplVAR_1 ops) := ⟨rfl, rfl, rfl⟩
theorem unimplVAR_2 (ops : List Operand) : Statement (.unimplVAR_2 ops) := ⟨rfl, rfl, rfl⟩
theorem unimplVAR_3 (ops : List Operand) : Statement (.unimplVAR_3 ops) := ⟨rfl, rfl, rfl⟩
theorem unimplVAR_4 (ops : List Operand) : Statement (.unimplVAR_4 ops) := ⟨rfl, rfl, rfl⟩
theorem unimplVAR_7 (ops : List Operand) : Statement (.unimplVAR_7 ops) := ⟨rfl, rfl, rfl⟩
theorem unimplVAR_8 (ops : List Operand) : Statement (.unimplVAR_8 ops) := ⟨rfl, rfl, rfl⟩
theorem unimplVAR_9 (ops : List Operand) : Statement (.unimplVAR_9 ops) := ⟨rfl, rfl, rfl⟩
theorem unimplVAR_10 (ops : List Operand) : Statement (.unimplVAR_10 ops) := ⟨rfl, rfl, rfl⟩
theorem unimplVAR_11 (ops : List Operand) : Statement (.unimplVAR_11 ops) := ⟨rfl, rfl, rfl⟩
theorem unimplVAR_12 (ops : List Operand) : Statement (.unimplVAR_12 ops) := ⟨rfl, rfl, rfl⟩
theorem unimplVAR_13 (ops : List Operand) : Statement (.unimplVAR_13 ops) := ⟨rfl, rfl, rfl⟩
theorem unimplVAR_14 (ops : List Operand) : Statement (.unimplVAR_14 ops) := ⟨rfl, rfl, rfl⟩
theorem unimplVAR_15 (ops : List Operand) : Statement (.unimplVAR_15 ops) := ⟨rfl, rfl, rfl⟩
theorem unimplVAR_16 (ops : List Operand) : Statement (.unimplVAR_16 ops) := ⟨rfl, rfl, rfl⟩
theorem unimplVAR_17 (ops : List Operand) : Statement (.unimplVAR_17 ops) := ⟨rfl, rfl, rfl⟩
theorem unimplVAR_18 (ops : List Operand) : Statement (.unimplVAR_18 ops) := ⟨rfl, rfl, rfl⟩
theorem unimplVAR_19 (ops : List Operand) : Statement (.unimplVAR_19 ops) := ⟨rfl, rfl, rfl⟩
theorem unimplVAR_20 (ops : List Operand) : Statement (.unimplVAR_20 ops) := ⟨rfl, rfl, rfl⟩
theorem unimplVAR_21 (ops : List Operand) : Statement (.unimplVAR_21 ops) := ⟨rfl, rfl, rfl⟩
theorem unimplVAR_22 (ops : List Operand) : Statement (.unimplVAR_22 ops) := ⟨rfl, rfl, rfl⟩
theorem unimplVAR_23 (ops : List Operand) : Statement (.unimplVAR_23 ops) := ⟨rfl, rfl, rfl⟩
theorem unimplVAR_24 (ops : List Operand) : Statement (.unimplVAR_24 ops) := ⟨rfl, rfl, rfl⟩
theorem unimplVAR_25 (ops : List Operand) : Statement (.unimplVAR_25 ops) := ⟨rfl, rfl, rfl⟩
theorem unimplVAR_26 (ops : List Operand) : Statement (.unimplVAR_26 ops) := ⟨rfl, rfl, rfl⟩
theorem unimplVAR_27 (ops : List Operand) : Statement (.unimplVAR_27 ops) := ⟨rfl, rfl, rfl⟩
theorem unimplVAR_28 (ops : List Operand) : Statement (.unimplVAR_28 ops) := ⟨rfl, rfl, rfl⟩
theorem unimplVAR_29 (ops : List Operand) : Statement (.unimplVAR_29 ops) := ⟨rfl, rfl, rfl⟩
theorem unimplVAR_30 (ops : List Operand) : Statement (.unimplVAR_30 ops) := ⟨rfl, rfl, rfl⟩
theorem unimplVAR_31 (ops : List Operand) : Statement (.unimplVAR_31 ops) := ⟨rfl, rfl, rfl⟩

/-- Every instruction. -/
theorem all (i : Instr) : Statement i := by
  cases i
  case jin form ops => exact jin form ops
  case testAttr form ops => exact testAttr form ops
  case setAttr form ops => exact setAttr form ops
  case clearAttr form ops => exact clearAttr form ops
  case store form ops => exact store form ops
  case insertObj form ops => exact insertObj form ops
  case add form ops => exact add form ops
  case sub form ops => exact sub form ops
  case div form ops => exact div form ops
  case mod form ops => exact mod form ops
  case getSibling op => exact getSibling op
  case getChild op => exact getChild op
  case getParent op => exact getParent op
  case inc op => exact inc op
  case dec op => exact dec op
  case printObj op => exact printObj op
  case ret op => exact ret op
  case rtrue => exact rtrue
  case rfalse => exact rfalse
  case print => exact print
  case quit => exact quit
  case newLine => exact newLine
  case call ops => exact call ops
  case printChar ops => exact printChar ops
  case printNum ops => exact printNum ops
  case extendedForm => exact extendedForm
  case unimpl2OP_0 form ops => exact unimpl2OP_0 form ops
  case unimpl2OP_1 form ops => exact unimpl2OP_1 form ops
  case unimpl2OP_2 form ops => exact unimpl2OP_2 form ops
  case unimpl2OP_3 form ops => exact unimpl2OP_3 form ops
  case unimpl2OP_4 form ops => exact unimpl2OP_4 form ops
  case unimpl2OP_5 form ops => exact unimpl2OP_5 form ops
  case unimpl2OP_7 form ops => exact unimpl2OP_7 form ops
  case unimpl2OP_8 form ops => exact unimpl2OP_8 form ops
  case unimpl2OP_9 form ops => exact unimpl2OP_9 form ops
  case unimpl2OP_15 form ops => exact unimpl2OP_15 form ops
  case unimpl2OP_16 form ops => exact unimpl2OP_16 form ops
  case unimpl2OP_17 form ops => exact unimpl2OP_17 form ops
  case unimpl2OP_18 form ops => exact unimpl2OP_18 form ops
  case unimpl2OP_19 form ops => exact unimpl2OP_19 form ops
  case unimpl2OP_22 form ops => exact unimpl2OP_22 form ops
  case unimpl2OP_25 form ops => exact unimpl2OP_25 form ops
  case unimpl2OP_26 form ops => exact unimpl2OP_26 form ops
  case unimpl2OP_27 form ops => exact unimpl2OP_27 form ops
  case unimpl2OP_28 form ops => exact unimpl2OP_28 form ops
  case unimpl2OP_29 form ops => exact unimpl2OP_29 form ops
  case unimpl2OP_30 form ops => exact unimpl2OP_30 form ops
  case unimpl2OP_31 form ops => exact unimpl2OP_31 form ops
  case unimpl1OP_0 op => exact unimpl1OP_0 op
  case unimpl1OP_4 op => exact unimpl1OP_4 op
  case unimpl1OP_7 op => exact unimpl1OP_7 op
  case unimpl1OP_8 op => exact unimpl1OP_8 op
  case unimpl1OP_9 op => exact unimpl1OP_9 op
  case unimpl1OP_12 op => exact unimpl1OP_12 op
  case unimpl1OP_13 op => exact unimpl1OP_13 op
  case unimpl1OP_14 op => exact unimpl1OP_14 op
  case unimpl1OP_15 op => exact unimpl1OP_15 op
  case unimpl0OP_3 => exact unimpl0OP_3
  case unimpl0OP_4 => exact unimpl0OP_4
  case unimpl0OP_5 => exact unimpl0OP_5
  case unimpl0OP_6 => exact unimpl0OP_6
  case unimpl0OP_7 => exact unimpl0OP_7
  case unimpl0OP_8 => exact unimpl0OP_8
  case unimpl0OP_9 => exact unimpl0OP_9
  case unimpl0OP_12 => exact unimpl0OP_12
  case unimpl0OP_13 => exact unimpl0OP_13
  case unimpl0OP_15 => exact unimpl0OP_15
  case unimplVAR_1 ops => exact unimplVAR_1 ops
  case unimplVAR_2 ops => exact unimplVAR_2 ops
  case unimplVAR_3 ops => exact unimplVAR_3 ops
  case unimplVAR_4 ops => exact unimplVAR_4 ops
  case unimplVAR_7 ops => exact unimplVAR_7 ops
  case unimplVAR_8 ops => exact unimplVAR_8 ops
  case unimplVAR_9 ops => exact unimplVAR_9 ops
  case unimplVAR_10 ops => exact unimplVAR_10 ops
  case unimplVAR_11 ops => exact unimplVAR_11 ops
  case unimplVAR_12 ops => exact unimplVAR_12 ops
  case unimplVAR_13 ops => exact unimplVAR_13 ops
  case unimplVAR_14 ops => exact unimplVAR_14 ops
  case unimplVAR_15 ops => exact unimplVAR_15 ops
  case unimplVAR_16 ops => exact unimplVAR_16 ops
  case unimplVAR_17 ops => exact unimplVAR_17 ops
  case unimplVAR_18 ops => exact unimplVAR_18 ops
  case unimplVAR_19 ops => exact unimplVAR_19 ops
  case unimplVAR_20 ops => exact unimplVAR_20 ops
  case unimplVAR_21 ops => exact unimplVAR_21 ops
  case unimplVAR_22 ops => exact unimplVAR_22 ops
  case unimplVAR_23 ops => exact unimplVAR_23 ops
  case unimplVAR_24 ops => exact unimplVAR_24 ops
  case unimplVAR_25 ops => exact unimplVAR_25 ops
  case unimplVAR_26 ops => exact unimplVAR_26 ops
  case unimplVAR_27 ops => exact unimplVAR_27 ops
  case unimplVAR_28 ops => exact unimplVAR_28 ops
  case unimplVAR_29 ops => exact unimplVAR_29 ops
  case unimplVAR_30 ops => exact unimplVAR_30 ops
  case unimplVAR_31 ops => exact unimplVAR_31 ops

end Sys2Proof.Laws.KeyTable
end

