-- ==== Sys2Proof/Laws/Decode.lean ====
section
/-! SUPPORT. The decoder and the encoder field by field: what each form's opcode byte, types byte and
operand bytes decode to. -/

namespace Sys2Proof

/-- The operand type of an operand (R72). -/
def Operand.kind (o : Operand) : OpType := opType o.typeCode

theorem wordOfBytes_extract (w : Word) :
    wordOfBytes (w.extractLsb' 8 8) (w.extractLsb' 0 8) = w := by
  unfold wordOfBytes
  apply BitVec.eq_of_getLsbD_eq
  intro i hi
  rw [BitVec.getLsbD_append]
  split
  · next h => simp [h]
  · next h =>
    rw [BitVec.getLsbD_extractLsb']
    have : i - 8 < 8 := by omega
    simp [this, Nat.add_sub_cancel' (show 8 ≤ i by omega)]

/-- An operand's bytes are fetched back, whatever follows them. -/
theorem fetchOperand_bytes (o : Operand) (rest : List Byte) :
    fetchOperand o.kind (o.bytes ++ rest) = some (o, rest) := by
  cases o with
  | large w =>
    change some (Operand.large (wordOfBytes (w.extractLsb' 8 8) (w.extractLsb' 0 8)), rest) = _
    rw [wordOfBytes_extract]
  | small b => rfl
  | var b => rfl
  | omitted => rfl

theorem kind_ne_omitted {o : Operand} (h : o.isPresent = true) : o.kind ≠ .omitted := by
  cases o with
  | large w => exact fun e => by cases e
  | small b => exact fun e => by cases e
  | var b => exact fun e => by cases e
  | omitted => cases h

/-- The bytes of operands are fetched back as those operands, when the fields after their own ask for
nothing more. -/
theorem fetchOperands_bytes {ops : List Operand} {pad : List OpType} (p : Nat) (rest : List Byte)
    (h : ∀ o ∈ ops, o.isPresent = true) (hp : pad.head?.getD .omitted = .omitted) :
    fetchOperands (ops.map Operand.kind ++ pad) p (ops.flatMap Operand.bytes ++ rest) = .ok ops := by
  induction ops generalizing p with
  | nil =>
    cases pad with
    | nil => rfl
    | cons t ts => obtain rfl : t = .omitted := hp; rfl
  | cons o os ih =>
    simp only [List.map_cons, List.cons_append, List.flatMap_cons, List.append_assoc]
    rw [fetchOperands, if_neg (kind_ne_omitted (h o List.mem_cons_self)), fetchOperand_bytes]
    simp only
    rw [ih _ (fun o' ho => h o' (List.mem_cons_of_mem _ ho))]
    rfl

theorem typeFields_codes (a b c d : BitVec 2) :
    typeFields (a ++ b ++ c ++ d) = [opType a, opType b, opType c, opType d] := by
  decide +kernel +revert

/-- The types byte of at most four operands holds their types and then Omitted. -/
theorem typeFields_typesByte {ops : List Operand} (h : ops.length ≤ 4) :
    ∃ pad, typeFields (typesByte ops) = ops.map Operand.kind ++ pad ∧
      pad.head?.getD .omitted = .omitted := by
  unfold typesByte
  rw [typeFields_codes]
  rcases ops with _ | ⟨a, _ | ⟨b, _ | ⟨c, _ | ⟨d, _ | ⟨e, r⟩⟩⟩⟩⟩
  · exact ⟨_, rfl, rfl⟩
  · exact ⟨_, rfl, rfl⟩
  · exact ⟨_, rfl, rfl⟩
  · exact ⟨_, rfl, rfl⟩
  · exact ⟨[], rfl, rfl⟩
  · simp at h; omega

/-! ## Opcode bytes by form -/

theorem opcode_long (x y : BitVec 1) (n : BitVec 5) :
    opcodeForm (0#1 ++ x ++ y ++ n) = .long ∧
      (0#1 ++ x ++ y ++ n : Byte).extractLsb' 0 5 = n ∧
      [longType ((0#1 ++ x ++ y ++ n : Byte).getLsbD 6), longType ((0#1 ++ x ++ y ++ n : Byte).getLsbD 5)] =
        [longType (decide (x = 1)), longType (decide (y = 1))] := by
  decide +kernel +revert

theorem opcode_variable2OP (n : BitVec 5) :
    opcodeForm (0b110#3 ++ n) = .variable2OP ∧ (0b110#3 ++ n : Byte).extractLsb' 0 5 = n := by
  decide +kernel +revert

theorem opcode_variableVAR (n : BitVec 5) :
    opcodeForm (0b111#3 ++ n) = .variableVAR ∧ (0b111#3 ++ n : Byte).extractLsb' 0 5 = n := by
  decide +kernel +revert

theorem opcode_short (t : BitVec 2) (n : BitVec 5) (hn : n.toNat < 16)
    (h : ¬ (t = 3 ∧ n.toNat = 14)) :
    opcodeForm (0b10#2 ++ t ++ n.setWidth 4) = .short (opType t) ∧
      ((0b10#2 ++ t ++ n.setWidth 4 : Byte).extractLsb' 0 4).toNat = n.toNat := by
  decide +kernel +revert

theorem longType_longBit {o : Operand} (h : o.isOneByte = true) :
    longType (decide (o.longBit = 1)) = o.kind ∧ o.isPresent = true := by
  cases o with
  | small b => exact ⟨rfl, rfl⟩
  | var b => exact ⟨rfl, rfl⟩
  | large w => cases h
  | omitted => cases h

end Sys2Proof
end

