-- ==== Sys2Proof/Laws/State.lean ====
section
/-! SUPPORT. What each update of the state does to each field: one lemma per field per update, so that
no later proof unfolds a record update. -/

namespace Sys2Proof.Machine

@[simp] theorem State.withPc_mem (s : State) (a : Int) : (s.withPc a).mem = s.mem := rfl
@[simp] theorem State.withPc_hdr (s : State) (a : Int) : (s.withPc a).hdr = s.hdr := rfl
@[simp] theorem State.withPc_globals (s : State) (a : Int) :
    (s.withPc a).globals = s.globals := rfl
@[simp] theorem State.withPc_abbrevs (s : State) (a : Int) :
    (s.withPc a).abbrevs = s.abbrevs := rfl
@[simp] theorem State.withPc_cur (s : State) (a : Int) :
    (s.withPc a).cur = { s.cur with pc := a } := rfl
@[simp] theorem State.withPc_callers (s : State) (a : Int) :
    (s.withPc a).callers = s.callers := rfl
@[simp] theorem State.withPc_status (s : State) (a : Int) : (s.withPc a).status = s.status := rfl
@[simp] theorem State.withPc_haltReason (s : State) (a : Int) :
    (s.withPc a).haltReason = s.haltReason := rfl
@[simp] theorem State.withPc_diagPc (s : State) (a : Int) : (s.withPc a).diagPc = s.diagPc := rfl
@[simp] theorem State.withPc_diagOpbyte (s : State) (a : Int) :
    (s.withPc a).diagOpbyte = s.diagOpbyte := rfl
@[simp] theorem State.withPc_diagClass (s : State) (a : Int) :
    (s.withPc a).diagClass = s.diagClass := rfl
@[simp] theorem State.withPc_diagOpcode (s : State) (a : Int) :
    (s.withPc a).diagOpcode = s.diagOpcode := rfl
@[simp] theorem State.withPc_params (s : State) (a : Int) : (s.withPc a).params = s.params := rfl
@[simp] theorem State.withPc_objs (s : State) (a : Int) : (s.withPc a).objs = s.objs := rfl
@[simp] theorem State.withPc_sink (s : State) (a : Int) : (s.withPc a).sink = s.sink := rfl

@[simp] theorem State.withStack_mem (s : State) (k : List Word) :
    (s.withStack k).mem = s.mem := rfl
@[simp] theorem State.withStack_hdr (s : State) (k : List Word) :
    (s.withStack k).hdr = s.hdr := rfl
@[simp] theorem State.withStack_globals (s : State) (k : List Word) :
    (s.withStack k).globals = s.globals := rfl
@[simp] theorem State.withStack_abbrevs (s : State) (k : List Word) :
    (s.withStack k).abbrevs = s.abbrevs := rfl
@[simp] theorem State.withStack_cur (s : State) (k : List Word) :
    (s.withStack k).cur = { s.cur with stack := k } := rfl
@[simp] theorem State.withStack_callers (s : State) (k : List Word) :
    (s.withStack k).callers = s.callers := rfl
@[simp] theorem State.withStack_status (s : State) (k : List Word) :
    (s.withStack k).status = s.status := rfl
@[simp] theorem State.withStack_haltReason (s : State) (k : List Word) :
    (s.withStack k).haltReason = s.haltReason := rfl
@[simp] theorem State.withStack_diagPc (s : State) (k : List Word) :
    (s.withStack k).diagPc = s.diagPc := rfl
@[simp] theorem State.withStack_diagOpbyte (s : State) (k : List Word) :
    (s.withStack k).diagOpbyte = s.diagOpbyte := rfl
@[simp] theorem State.withStack_diagClass (s : State) (k : List Word) :
    (s.withStack k).diagClass = s.diagClass := rfl
@[simp] theorem State.withStack_diagOpcode (s : State) (k : List Word) :
    (s.withStack k).diagOpcode = s.diagOpcode := rfl
@[simp] theorem State.withStack_params (s : State) (k : List Word) :
    (s.withStack k).params = s.params := rfl
@[simp] theorem State.withStack_objs (s : State) (k : List Word) :
    (s.withStack k).objs = s.objs := rfl
@[simp] theorem State.withStack_sink (s : State) (k : List Word) :
    (s.withStack k).sink = s.sink := rfl

@[simp] theorem State.withLocal_mem (s : State) (n : Nat) (x : Word) :
    (s.withLocal n x).mem = s.mem := rfl
@[simp] theorem State.withLocal_hdr (s : State) (n : Nat) (x : Word) :
    (s.withLocal n x).hdr = s.hdr := rfl
@[simp] theorem State.withLocal_globals (s : State) (n : Nat) (x : Word) :
    (s.withLocal n x).globals = s.globals := rfl
@[simp] theorem State.withLocal_abbrevs (s : State) (n : Nat) (x : Word) :
    (s.withLocal n x).abbrevs = s.abbrevs := rfl
@[simp] theorem State.withLocal_cur (s : State) (n : Nat) (x : Word) :
    (s.withLocal n x).cur = { s.cur with locals := s.cur.locals.setIfInBounds (n - 1) (some x) } := rfl
@[simp] theorem State.withLocal_callers (s : State) (n : Nat) (x : Word) :
    (s.withLocal n x).callers = s.callers := rfl
@[simp] theorem State.withLocal_status (s : State) (n : Nat) (x : Word) :
    (s.withLocal n x).status = s.status := rfl
@[simp] theorem State.withLocal_haltReason (s : State) (n : Nat) (x : Word) :
    (s.withLocal n x).haltReason = s.haltReason := rfl
@[simp] theorem State.withLocal_diagPc (s : State) (n : Nat) (x : Word) :
    (s.withLocal n x).diagPc = s.diagPc := rfl
@[simp] theorem State.withLocal_diagOpbyte (s : State) (n : Nat) (x : Word) :
    (s.withLocal n x).diagOpbyte = s.diagOpbyte := rfl
@[simp] theorem State.withLocal_diagClass (s : State) (n : Nat) (x : Word) :
    (s.withLocal n x).diagClass = s.diagClass := rfl
@[simp] theorem State.withLocal_diagOpcode (s : State) (n : Nat) (x : Word) :
    (s.withLocal n x).diagOpcode = s.diagOpcode := rfl
@[simp] theorem State.withLocal_params (s : State) (n : Nat) (x : Word) :
    (s.withLocal n x).params = s.params := rfl
@[simp] theorem State.withLocal_objs (s : State) (n : Nat) (x : Word) :
    (s.withLocal n x).objs = s.objs := rfl
@[simp] theorem State.withLocal_sink (s : State) (n : Nat) (x : Word) :
    (s.withLocal n x).sink = s.sink := rfl

@[simp] theorem State.withGlobal_mem (s : State) (i : Nat) (x : Word) :
    (s.withGlobal i x).mem = s.mem := rfl
@[simp] theorem State.withGlobal_hdr (s : State) (i : Nat) (x : Word) :
    (s.withGlobal i x).hdr = s.hdr := rfl
@[simp] theorem State.withGlobal_globals (s : State) (i : Nat) (x : Word) :
    (s.withGlobal i x).globals = s.globals.setIfInBounds i x := rfl
@[simp] theorem State.withGlobal_abbrevs (s : State) (i : Nat) (x : Word) :
    (s.withGlobal i x).abbrevs = s.abbrevs := rfl
@[simp] theorem State.withGlobal_cur (s : State) (i : Nat) (x : Word) :
    (s.withGlobal i x).cur = s.cur := rfl
@[simp] theorem State.withGlobal_callers (s : State) (i : Nat) (x : Word) :
    (s.withGlobal i x).callers = s.callers := rfl
@[simp] theorem State.withGlobal_status (s : State) (i : Nat) (x : Word) :
    (s.withGlobal i x).status = s.status := rfl
@[simp] theorem State.withGlobal_haltReason (s : State) (i : Nat) (x : Word) :
    (s.withGlobal i x).haltReason = s.haltReason := rfl
@[simp] theorem State.withGlobal_diagPc (s : State) (i : Nat) (x : Word) :
    (s.withGlobal i x).diagPc = s.diagPc := rfl
@[simp] theorem State.withGlobal_diagOpbyte (s : State) (i : Nat) (x : Word) :
    (s.withGlobal i x).diagOpbyte = s.diagOpbyte := rfl
@[simp] theorem State.withGlobal_diagClass (s : State) (i : Nat) (x : Word) :
    (s.withGlobal i x).diagClass = s.diagClass := rfl
@[simp] theorem State.withGlobal_diagOpcode (s : State) (i : Nat) (x : Word) :
    (s.withGlobal i x).diagOpcode = s.diagOpcode := rfl
@[simp] theorem State.withGlobal_params (s : State) (i : Nat) (x : Word) :
    (s.withGlobal i x).params = s.params := rfl
@[simp] theorem State.withGlobal_objs (s : State) (i : Nat) (x : Word) :
    (s.withGlobal i x).objs = s.objs := rfl
@[simp] theorem State.withGlobal_sink (s : State) (i : Nat) (x : Word) :
    (s.withGlobal i x).sink = s.sink := rfl

@[simp] theorem State.withFrames_mem (s : State) (f : Frame) (cs : List Frame) :
    (s.withFrames f cs).mem = s.mem := rfl
@[simp] theorem State.withFrames_hdr (s : State) (f : Frame) (cs : List Frame) :
    (s.withFrames f cs).hdr = s.hdr := rfl
@[simp] theorem State.withFrames_globals (s : State) (f : Frame) (cs : List Frame) :
    (s.withFrames f cs).globals = s.globals := rfl
@[simp] theorem State.withFrames_abbrevs (s : State) (f : Frame) (cs : List Frame) :
    (s.withFrames f cs).abbrevs = s.abbrevs := rfl
@[simp] theorem State.withFrames_cur (s : State) (f : Frame) (cs : List Frame) :
    (s.withFrames f cs).cur = f := rfl
@[simp] theorem State.withFrames_callers (s : State) (f : Frame) (cs : List Frame) :
    (s.withFrames f cs).callers = cs := rfl
@[simp] theorem State.withFrames_status (s : State) (f : Frame) (cs : List Frame) :
    (s.withFrames f cs).status = s.status := rfl
@[simp] theorem State.withFrames_haltReason (s : State) (f : Frame) (cs : List Frame) :
    (s.withFrames f cs).haltReason = s.haltReason := rfl
@[simp] theorem State.withFrames_diagPc (s : State) (f : Frame) (cs : List Frame) :
    (s.withFrames f cs).diagPc = s.diagPc := rfl
@[simp] theorem State.withFrames_diagOpbyte (s : State) (f : Frame) (cs : List Frame) :
    (s.withFrames f cs).diagOpbyte = s.diagOpbyte := rfl
@[simp] theorem State.withFrames_diagClass (s : State) (f : Frame) (cs : List Frame) :
    (s.withFrames f cs).diagClass = s.diagClass := rfl
@[simp] theorem State.withFrames_diagOpcode (s : State) (f : Frame) (cs : List Frame) :
    (s.withFrames f cs).diagOpcode = s.diagOpcode := rfl
@[simp] theorem State.withFrames_params (s : State) (f : Frame) (cs : List Frame) :
    (s.withFrames f cs).params = s.params := rfl
@[simp] theorem State.withFrames_objs (s : State) (f : Frame) (cs : List Frame) :
    (s.withFrames f cs).objs = s.objs := rfl
@[simp] theorem State.withFrames_sink (s : State) (f : Frame) (cs : List Frame) :
    (s.withFrames f cs).sink = s.sink := rfl

@[simp] theorem State.emit_mem (s : State) (c : SinkCall) : (s.emit c).mem = s.mem := rfl
@[simp] theorem State.emit_hdr (s : State) (c : SinkCall) : (s.emit c).hdr = s.hdr := rfl
@[simp] theorem State.emit_globals (s : State) (c : SinkCall) :
    (s.emit c).globals = s.globals := rfl
@[simp] theorem State.emit_abbrevs (s : State) (c : SinkCall) :
    (s.emit c).abbrevs = s.abbrevs := rfl
@[simp] theorem State.emit_cur (s : State) (c : SinkCall) : (s.emit c).cur = s.cur := rfl
@[simp] theorem State.emit_callers (s : State) (c : SinkCall) :
    (s.emit c).callers = s.callers := rfl
@[simp] theorem State.emit_status (s : State) (c : SinkCall) : (s.emit c).status = s.status := rfl
@[simp] theorem State.emit_haltReason (s : State) (c : SinkCall) :
    (s.emit c).haltReason = s.haltReason := rfl
@[simp] theorem State.emit_diagPc (s : State) (c : SinkCall) : (s.emit c).diagPc = s.diagPc := rfl
@[simp] theorem State.emit_diagOpbyte (s : State) (c : SinkCall) :
    (s.emit c).diagOpbyte = s.diagOpbyte := rfl
@[simp] theorem State.emit_diagClass (s : State) (c : SinkCall) :
    (s.emit c).diagClass = s.diagClass := rfl
@[simp] theorem State.emit_diagOpcode (s : State) (c : SinkCall) :
    (s.emit c).diagOpcode = s.diagOpcode := rfl
@[simp] theorem State.emit_params (s : State) (c : SinkCall) : (s.emit c).params = s.params := rfl
@[simp] theorem State.emit_objs (s : State) (c : SinkCall) : (s.emit c).objs = s.objs := rfl
@[simp] theorem State.emit_sink (s : State) (c : SinkCall) : (s.emit c).sink = s.sink ++ [c] := rfl

@[simp] theorem State.withObjs_mem (s : State) (os : List GameObject) :
    (s.withObjs os).mem = s.mem := rfl
@[simp] theorem State.withObjs_hdr (s : State) (os : List GameObject) :
    (s.withObjs os).hdr = s.hdr := rfl
@[simp] theorem State.withObjs_globals (s : State) (os : List GameObject) :
    (s.withObjs os).globals = s.globals := rfl
@[simp] theorem State.withObjs_abbrevs (s : State) (os : List GameObject) :
    (s.withObjs os).abbrevs = s.abbrevs := rfl
@[simp] theorem State.withObjs_cur (s : State) (os : List GameObject) :
    (s.withObjs os).cur = s.cur := rfl
@[simp] theorem State.withObjs_callers (s : State) (os : List GameObject) :
    (s.withObjs os).callers = s.callers := rfl
@[simp] theorem State.withObjs_status (s : State) (os : List GameObject) :
    (s.withObjs os).status = s.status := rfl
@[simp] theorem State.withObjs_haltReason (s : State) (os : List GameObject) :
    (s.withObjs os).haltReason = s.haltReason := rfl
@[simp] theorem State.withObjs_diagPc (s : State) (os : List GameObject) :
    (s.withObjs os).diagPc = s.diagPc := rfl
@[simp] theorem State.withObjs_diagOpbyte (s : State) (os : List GameObject) :
    (s.withObjs os).diagOpbyte = s.diagOpbyte := rfl
@[simp] theorem State.withObjs_diagClass (s : State) (os : List GameObject) :
    (s.withObjs os).diagClass = s.diagClass := rfl
@[simp] theorem State.withObjs_diagOpcode (s : State) (os : List GameObject) :
    (s.withObjs os).diagOpcode = s.diagOpcode := rfl
@[simp] theorem State.withObjs_params (s : State) (os : List GameObject) :
    (s.withObjs os).params = s.params := rfl
@[simp] theorem State.withObjs_objs (s : State) (os : List GameObject) :
    (s.withObjs os).objs = os := rfl
@[simp] theorem State.withObjs_sink (s : State) (os : List GameObject) :
    (s.withObjs os).sink = s.sink := rfl

@[simp] theorem State.haltNormally_mem (s : State) (a : Int) :
    (s.haltNormally a).mem = s.mem := rfl
@[simp] theorem State.haltNormally_hdr (s : State) (a : Int) :
    (s.haltNormally a).hdr = s.hdr := rfl
@[simp] theorem State.haltNormally_globals (s : State) (a : Int) :
    (s.haltNormally a).globals = s.globals := rfl
@[simp] theorem State.haltNormally_abbrevs (s : State) (a : Int) :
    (s.haltNormally a).abbrevs = s.abbrevs := rfl
@[simp] theorem State.haltNormally_cur (s : State) (a : Int) :
    (s.haltNormally a).cur = s.cur := rfl
@[simp] theorem State.haltNormally_callers (s : State) (a : Int) :
    (s.haltNormally a).callers = s.callers := rfl
@[simp] theorem State.haltNormally_status (s : State) (a : Int) :
    (s.haltNormally a).status = .halted := rfl
@[simp] theorem State.haltNormally_haltReason (s : State) (a : Int) :
    (s.haltNormally a).haltReason = .normal := rfl
@[simp] theorem State.haltNormally_diagPc (s : State) (a : Int) :
    (s.haltNormally a).diagPc = a := rfl
@[simp] theorem State.haltNormally_diagOpbyte (s : State) (a : Int) :
    (s.haltNormally a).diagOpbyte = s.diagOpbyte := rfl
@[simp] theorem State.haltNormally_diagClass (s : State) (a : Int) :
    (s.haltNormally a).diagClass = s.diagClass := rfl
@[simp] theorem State.haltNormally_diagOpcode (s : State) (a : Int) :
    (s.haltNormally a).diagOpcode = s.diagOpcode := rfl
@[simp] theorem State.haltNormally_params (s : State) (a : Int) :
    (s.haltNormally a).params = s.params := rfl
@[simp] theorem State.haltNormally_objs (s : State) (a : Int) :
    (s.haltNormally a).objs = s.objs := rfl
@[simp] theorem State.haltNormally_sink (s : State) (a : Int) :
    (s.haltNormally a).sink = s.sink := rfl

@[simp] theorem State.takeFault_mem (s : State) (k : FaultKind) (a : Int) (b : Option Byte) (c : Option OpClass)
    (n : Option (BitVec 5)) :
    (s.takeFault k a b c n).mem = s.mem := rfl
@[simp] theorem State.takeFault_hdr (s : State) (k : FaultKind) (a : Int) (b : Option Byte) (c : Option OpClass)
    (n : Option (BitVec 5)) :
    (s.takeFault k a b c n).hdr = s.hdr := rfl
@[simp] theorem State.takeFault_globals (s : State) (k : FaultKind) (a : Int) (b : Option Byte) (c : Option OpClass)
    (n : Option (BitVec 5)) :
    (s.takeFault k a b c n).globals = s.globals := rfl
@[simp] theorem State.takeFault_abbrevs (s : State) (k : FaultKind) (a : Int) (b : Option Byte) (c : Option OpClass)
    (n : Option (BitVec 5)) :
    (s.takeFault k a b c n).abbrevs = s.abbrevs := rfl
@[simp] theorem State.takeFault_cur (s : State) (k : FaultKind) (a : Int) (b : Option Byte) (c : Option OpClass)
    (n : Option (BitVec 5)) :
    (s.takeFault k a b c n).cur = s.cur := rfl
@[simp] theorem State.takeFault_callers (s : State) (k : FaultKind) (a : Int) (b : Option Byte) (c : Option OpClass)
    (n : Option (BitVec 5)) :
    (s.takeFault k a b c n).callers = s.callers := rfl
@[simp] theorem State.takeFault_status (s : State) (k : FaultKind) (a : Int) (b : Option Byte) (c : Option OpClass)
    (n : Option (BitVec 5)) :
    (s.takeFault k a b c n).status = .halted := rfl
@[simp] theorem State.takeFault_haltReason (s : State) (k : FaultKind) (a : Int) (b : Option Byte) (c : Option OpClass)
    (n : Option (BitVec 5)) :
    (s.takeFault k a b c n).haltReason = .fault k := rfl
@[simp] theorem State.takeFault_diagPc (s : State) (k : FaultKind) (a : Int) (b : Option Byte) (c : Option OpClass)
    (n : Option (BitVec 5)) :
    (s.takeFault k a b c n).diagPc = a := rfl
@[simp] theorem State.takeFault_diagOpbyte (s : State) (k : FaultKind) (a : Int) (b : Option Byte) (c : Option OpClass)
    (n : Option (BitVec 5)) :
    (s.takeFault k a b c n).diagOpbyte = b := rfl
@[simp] theorem State.takeFault_diagClass (s : State) (k : FaultKind) (a : Int) (b : Option Byte) (c : Option OpClass)
    (n : Option (BitVec 5)) :
    (s.takeFault k a b c n).diagClass = c := rfl
@[simp] theorem State.takeFault_diagOpcode (s : State) (k : FaultKind) (a : Int) (b : Option Byte) (c : Option OpClass)
    (n : Option (BitVec 5)) :
    (s.takeFault k a b c n).diagOpcode = n := rfl
@[simp] theorem State.takeFault_params (s : State) (k : FaultKind) (a : Int) (b : Option Byte) (c : Option OpClass)
    (n : Option (BitVec 5)) :
    (s.takeFault k a b c n).params = s.params := rfl
@[simp] theorem State.takeFault_objs (s : State) (k : FaultKind) (a : Int) (b : Option Byte) (c : Option OpClass)
    (n : Option (BitVec 5)) :
    (s.takeFault k a b c n).objs = s.objs := rfl
@[simp] theorem State.takeFault_sink (s : State) (k : FaultKind) (a : Int) (b : Option Byte) (c : Option OpClass)
    (n : Option (BitVec 5)) :
    (s.takeFault k a b c n).sink = s.sink := rfl

end Sys2Proof.Machine
end

