-- ==== Sys2Proof/Laws/Ops.lean ====
section
/-! SUPPORT. One lemma for each shared operation that says everything it can do: an action answers
exactly what the relations of Safety.lean allow. Later proofs cite these and unfold no operation. -/

namespace Sys2Proof.Machine

/-! ## Sequencing -/

theorem act_answer {α : Type} (a : α) (s : State) : answer a s = .ok a s := rfl

theorem act_andThen_ok_iff {α β : Type} {m : Act α} {f : α → Act β} {s u : State} {b : β} :
    andThen m f s = .ok b u ↔ ∃ a t, m s = .ok a t ∧ f a t = .ok b u := by
  unfold andThen
  cases m s with
  | ok a t => simp
  | error k t => simp

theorem act_andThen_error_iff {α β : Type} {m : Act α} {f : α → Act β} {s u : State} {k : FaultKind} :
    andThen m f s = .error k u ↔
      m s = .error k u ∨ ∃ a t, m s = .ok a t ∧ f a t = .error k u := by
  unfold andThen
  cases m s with
  | ok a t => simp
  | error k t => simp

theorem act_andThen_ok {α β : Type} {m : Act α} {f : α → Act β} {s t : State} {a : α}
    (h : m s = .ok a t) : andThen m f s = f a t := by
  unfold andThen
  rw [h]

theorem act_andThen_error {α β : Type} {m : Act α} {f : α → Act β} {s t : State} {k : FaultKind}
    (h : m s = .error k t) : andThen m f s = .error k t := by
  unfold andThen
  rw [h]

theorem act_answer_ok_iff {α : Type} {a b : α} {s t : State} :
    answer a s = .ok b t ↔ a = b ∧ s = t := by
  rw [act_answer]; simp

theorem raise_apply {α : Type} (k : FaultKind) (s : State) : (raise k : Act α) s = .error k s := rfl

theorem raise_ok_iff {α : Type} {k : FaultKind} {s t : State} {a : α} :
    (raise k : Act α) s = .ok a t ↔ False := by simp [raise]

theorem look_ok_iff {α : Type} {f : State → α} {s t : State} {a : α} :
    look f s = .ok a t ↔ a = f s ∧ t = s := by
  simp [look, eq_comm]

theorem update_ok_iff {f : State → State} {s t : State} {a : Unit} :
    update f s = .ok a t ↔ t = f s := by
  simp [update, eq_comm]

/-! ## Memory -/

theorem memByte_ok_iff {a : Int} {s t : State} {b : Byte} :
    memByte a s = .ok b t ↔ s.mem.readByte a = some b ∧ t = s := by
  unfold memByte
  cases s.mem.readByte a <;> simp [eq_comm]

theorem memByte_error {a : Int} {s : State} (h : s.mem.readByte a = none) :
    memByte a s = .error (.outOfBounds a) s := by
  simp [memByte, h]

theorem memWords_ok_iff {n : Nat} {a : Int} {s t : State} {ws : List Word} :
    memWords n a s = .ok ws t ↔ s.mem.readWords n a = .ok ws ∧ t = s := by
  unfold memWords
  cases s.mem.readWords n a <;> simp [eq_comm]

/-! ## The variable-number space -/

theorem pop_ok_iff {s t : State} {x : Word} :
    pop s = .ok x t ↔ ∃ k, s.cur.stack = x :: k ∧ t = s.withStack k := by
  unfold pop
  cases s.cur.stack with
  | nil => simp
  | cons y k => simp only [Res.ok.injEq, List.cons.injEq]; grind

theorem push_ok_iff {s t : State} {x : Word} {u : Unit} :
    push x s = .ok u t ↔
      s.params.maxEvalStack ≠ some s.cur.stack.length ∧ t = s.withStack (x :: s.cur.stack) := by
  unfold push
  split <;> simp_all [eq_comm]

theorem toNat_eq_zero_iff {v : Word} : v.toNat = 0 ↔ v = 0 := by
  constructor
  · intro h; exact BitVec.eq_of_toNat_eq (by simpa using h)
  · rintro rfl; rfl

/-- What ReadVar can answer (R34). -/
theorem readVar_ok_iff {v x : Word} {s t : State} : readVar v s = .ok x t ↔ ReadsVar s v x t := by
  unfold readVar
  constructor
  · split
    · next h =>
      intro hp
      obtain rfl := toNat_eq_zero_iff.1 h
      obtain ⟨k, hk, rfl⟩ := pop_ok_iff.1 hp
      exact .stack s x k hk
    · split
      · split
        · next y hy =>
          intro h; cases h; exact .slot s v _ (by omega) (by assumption) hy
        · intro h; cases h
      · split
        · split
          · next y hy =>
            intro h; cases h; exact .globalCell s v _ (by omega) (by assumption) hy
          · intro h; cases h
        · intro h; cases h
  · intro h
    cases h with
    | stack _ k hk => rw [if_pos (by rfl)]; exact pop_ok_iff.2 ⟨k, hk, rfl⟩
    | slot _ _ h1 h2 h3 => rw [if_neg (by omega), if_pos h2, h3]
    | globalCell _ _ h1 h2 h3 => rw [if_neg (by omega), if_neg (by omega), if_pos h2, h3]

/-- When ReadVar raises (R34). -/
theorem readVar_error_of {v : Word} {s : State} {k : FaultKind} (h : ReadFails s v k) :
    readVar v s = .error k s := by
  unfold readVar
  cases h with
  | underflow h => rw [if_pos (by rfl)]; simp [pop, h]
  | unset _ h1 h2 h3 => rw [if_neg (by omega), if_pos h2, h3]
  | index _ h => rw [if_neg (by omega), if_neg (by omega), if_neg (by omega)]

/-- What WriteVar can answer (R35). -/
theorem writeVar_ok_iff {v x : Word} {s t : State} {u : Unit} :
    writeVar v x s = .ok u t ↔ WritesVar s v x t := by
  unfold writeVar
  constructor
  · split
    · next h =>
      intro hp
      obtain rfl := toNat_eq_zero_iff.1 h
      obtain ⟨hk, rfl⟩ := push_ok_iff.1 hp
      exact .stack s x hk
    · split
      · next h1 h2 => intro h; cases h; exact .slot s v x (by omega) h2
      · split
        · next h1 h2 h3 => intro h; cases h; exact .globalCell s v x (by omega) h3
        · intro h; cases h
  · intro h
    cases h with
    | stack _ hk => rw [if_pos (by rfl)]; exact push_ok_iff.2 ⟨hk, rfl⟩
    | slot _ _ h1 h2 => rw [if_neg (by omega), if_pos h2]
    | globalCell _ _ h1 h2 => rw [if_neg (by omega), if_neg (by omega), if_pos h2]

/-- When WriteVar raises (R35). -/
theorem writeVar_error_of {v x : Word} {s : State} {k : FaultKind} (h : WriteFails s v k) :
    writeVar v x s = .error k s := by
  unfold writeVar
  cases h with
  | overflow h => rw [if_pos (by rfl)]; simp [push, h]
  | index _ h => rw [if_neg (by omega), if_neg (by omega), if_neg (by omega)]

/-! ## Operands -/

/-- What Resolve can answer (R105). -/
theorem resolve_ok_iff {o : Operand} {x : Word} {s t : State} :
    resolve o s = .ok x t ↔ Resolves s o x t := by
  cases o with
  | large w =>
    rw [resolve, act_answer_ok_iff]
    exact ⟨by rintro ⟨rfl, rfl⟩; exact .large s w, by rintro ⟨⟩; exact ⟨rfl, rfl⟩⟩
  | small b =>
    rw [resolve, act_answer_ok_iff]
    exact ⟨by rintro ⟨rfl, rfl⟩; exact .small s b, by rintro ⟨⟩; exact ⟨rfl, rfl⟩⟩
  | var b =>
    rw [resolve, readVar_ok_iff]
    exact ⟨.var s b x t, by rintro ⟨⟩; assumption⟩
  | omitted => rw [resolve, raise_ok_iff]; exact ⟨False.elim, by rintro ⟨⟩⟩

/-- When Resolve raises (R105). -/
theorem resolve_error_of {o : Operand} {s : State} {k : FaultKind} (h : ResolveFails s o k) :
    resolve o s = .error k s := by
  cases h with
  | var b _ h => exact readVar_error_of h
  | omitted => rfl

theorem resolveAll_ok_iff {os : List Operand} {xs : List Word} {s t : State} :
    resolveAll os s = .ok xs t ↔ ResolvesAll s os xs t := by
  induction os generalizing xs s t with
  | nil =>
    rw [resolveAll, act_answer_ok_iff]
    exact ⟨by rintro ⟨rfl, rfl⟩; exact .nil s, by rintro ⟨⟩; exact ⟨rfl, rfl⟩⟩
  | cons o os ih =>
    rw [resolveAll]
    simp only [act_andThen_ok_iff, act_answer_ok_iff, resolve_ok_iff, ih]
    constructor
    · rintro ⟨x, s1, h1, ys, s2, h2, rfl, rfl⟩; exact .cons _ _ _ _ _ _ _ h1 h2
    · rintro ⟨⟩; exact ⟨_, _, ‹_›, _, _, ‹_›, rfl, rfl⟩

/-- One operand: exactly one in the list, resolved (R104, R105). -/
theorem operand1_ok_iff {inst : Inst} {x : Word} {s t : State} :
    operand1 inst s = .ok x t ↔ ∃ o, inst.operands = [o] ∧ Resolves s o x t := by
  unfold operand1
  rcases inst.operands with _ | ⟨a, _ | ⟨b, rest⟩⟩
  · simp [raise]
  · simp [resolve_ok_iff]
  · simp [raise]

/-- Two operands: exactly two in the list, resolved left to right (R104, R105). -/
theorem operands2_ok_iff {inst : Inst} {p : Word × Word} {s t : State} :
    operands2 inst s = .ok p t ↔
      ∃ o1 o2 s1, inst.operands = [o1, o2] ∧ Resolves s o1 p.1 s1 ∧ Resolves s1 o2 p.2 t := by
  unfold operands2
  rcases inst.operands with _ | ⟨a, _ | ⟨b, _ | ⟨c, rest⟩⟩⟩
  · simp [raise]
  · simp [raise]
  · simp only [act_andThen_ok_iff, act_answer_ok_iff, resolve_ok_iff]
    constructor
    · rintro ⟨x, s1, h1, y, s2, h2, rfl, rfl⟩; exact ⟨a, b, s1, rfl, h1, h2⟩
    · rintro ⟨o1, o2, s1, ho, h1, h2⟩
      cases ho
      exact ⟨_, s1, h1, _, _, h2, rfl, rfl⟩
  · simp [raise]

/-- One operand is resolved at once. -/
theorem operand1_eq {inst : Inst} {o : Operand} (h : inst.operands = [o]) :
    operand1 inst = resolve o := by
  unfold operand1
  rw [h]

/-- A list of another length is refused before any operand is resolved (R104). -/
theorem operand1_wrong {inst : Inst} (s : State) (h : inst.operands.length ≠ 1) :
    operand1 inst s = .error (.invalidOperandCount inst.operands.length) s := by
  unfold operand1
  rcases he : inst.operands with _ | ⟨a, _ | ⟨b, rest⟩⟩
  · rfl
  · rw [he] at h; exact absurd rfl h
  · rfl

/-- Two operands are resolved one after the other. -/
theorem operands2_eq {inst : Inst} {o1 o2 : Operand} (h : inst.operands = [o1, o2]) :
    operands2 inst = andThen (resolve o1) fun x => andThen (resolve o2) fun y => answer (x, y) := by
  unfold operands2
  rw [h]

/-- A list of another length is refused before any operand is resolved (R104). -/
theorem operands2_wrong {inst : Inst} (s : State) (h : inst.operands.length ≠ 2) :
    operands2 inst s = .error (.invalidOperandCount inst.operands.length) s := by
  unfold operands2
  rcases he : inst.operands with _ | ⟨a, _ | ⟨b, _ | ⟨c, rest⟩⟩⟩
  · rfl
  · rfl
  · rw [he] at h; exact absurd rfl h
  · rfl

/-- A call of no operand, or of more than four, is refused before any operand is resolved (R104). -/
theorem operandsCall_wrong {inst : Inst} (s : State)
    (h : inst.operands.length = 0 ∨ 4 < inst.operands.length) :
    operandsCall inst s = .error (.invalidOperandCount inst.operands.length) s := by
  unfold operandsCall
  rcases he : inst.operands with _ | ⟨r, args⟩
  · rfl
  · rw [he] at h
    simp only [List.length_cons] at h ⊢
    rw [if_neg (by omega)]
    rfl

/-- The operands of a call: one to four in the list, resolved left to right (R104, R105). -/
theorem operandsCall_ok_iff {inst : Inst} {p : Word × List Word} {s t : State} :
    operandsCall inst s = .ok p t ↔
      ∃ o os, inst.operands = o :: os ∧ os.length ≤ 3 ∧ ResolvesAll s (o :: os) (p.1 :: p.2) t := by
  unfold operandsCall
  rcases inst.operands with _ | ⟨r, args⟩
  · simp [raise]
  · simp only
    split
    · next hl =>
      simp only [act_andThen_ok_iff, act_answer_ok_iff, resolve_ok_iff, resolveAll_ok_iff]
      constructor
      · rintro ⟨x, s1, h1, xs, s2, h2, rfl, rfl⟩
        exact ⟨r, args, rfl, hl, .cons _ _ _ _ _ _ _ h1 h2⟩
      · rintro ⟨o, os, ho, _, h⟩
        cases ho
        obtain ⟨p1, p2⟩ := p
        cases h
        exact ⟨_, _, ‹_›, _, _, ‹_›, rfl, rfl⟩
    · next hl =>
      rw [raise_ok_iff]
      refine ⟨False.elim, ?_⟩
      rintro ⟨o, os, ho, h3, _⟩
      cases ho
      exact hl h3

/-! ## Suffixes and returns -/

/-- What StoreResult can answer (R106). -/
theorem storeResult_ok_iff {x : Word} {q r : Int} {s t : State} :
    storeResult x q s = .ok r t ↔ r = q + 1 ∧ StoresAt s q x t := by
  unfold storeResult StoresAt
  simp only [act_andThen_ok_iff, act_answer_ok_iff, memByte_ok_iff, writeVar_ok_iff]
  constructor
  · rintro ⟨b, s1, ⟨hb, rfl⟩, u, s2, hw, rfl, rfl⟩; exact ⟨rfl, b, hb, hw⟩
  · rintro ⟨rfl, b, hb, hw⟩; exact ⟨b, s, ⟨hb, rfl⟩, (), t, hw, rfl, rfl⟩

theorem popFrame_ok_iff {s t : State} {u : Unit} :
    popFrame s = .ok u t ↔ ∃ f cs, s.callers = f :: cs ∧ t = s.withFrames f cs := by
  unfold popFrame
  cases s.callers with
  | nil => simp
  | cons f cs => simp only [Res.ok.injEq, List.cons.injEq]; grind

theorem setPc_ok_iff {a : Int} {s t : State} {u : Unit} :
    setPc a s = .ok u t ↔ t = s.withPc a := update_ok_iff

theorem emit_ok_iff {c : SinkCall} {s t : State} {u : Unit} :
    emit c s = .ok u t ↔ t = s.emit c := update_ok_iff

/-- What Return can answer (R204). -/
theorem returnWith_ok_iff {x : Word} {s t : State} {u : Unit} :
    returnWith x s = .ok u t ↔ Returns s x t := by
  unfold returnWith Returns StoresAt
  simp only [act_andThen_ok_iff, memByte_ok_iff, writeVar_ok_iff, popFrame_ok_iff, look_ok_iff,
    setPc_ok_iff]
  constructor
  · rintro ⟨_, _, ⟨f, cs, hc, rfl⟩, q, _, ⟨rfl, rfl⟩, b, _, ⟨hb, rfl⟩, _, w, hw, rfl⟩
    exact ⟨f, cs, w, hc, ⟨b, hb, hw⟩, rfl⟩
  · rintro ⟨f, cs, w, hc, ⟨b, hb, hw⟩, rfl⟩
    exact ⟨(), _, ⟨f, cs, hc, rfl⟩, _, _, ⟨rfl, rfl⟩, b, _, ⟨hb, rfl⟩, (), w, hw, rfl⟩

theorem returnWith_initial {x : Word} {s : State} (h : s.callers = []) :
    returnWith x s = .error .returnFromMain s := by
  unfold returnWith
  rw [act_andThen_error (k := .returnFromMain) (t := s)]
  simp [popFrame, h]

theorem extract6_toNat (b : Byte) : (b.extractLsb' 0 6).toNat = b.toNat % 64 := by
  simp [BitVec.extractLsb'_toNat]

theorem branchOffset_toNat (b c : Byte) :
    (b.extractLsb' 0 6 ++ c : BitVec 14).toNat = b.toNat % 64 * 256 + c.toNat := by
  rw [BitVec.toNat_append, extract6_toNat, ← Nat.shiftLeft_add_eq_or_of_lt c.isLt,
    Nat.shiftLeft_eq]

theorem branchOffset_bit13 (b c : Byte) :
    (b.extractLsb' 0 6 ++ c : BitVec 14).getLsbD 13 = b.getLsbD 5 := by
  rw [BitVec.getLsbD_append]
  simp

/-- What BranchBytes can answer (R107). -/
theorem branchBytes_ok_iff {q : Int} {s t : State} {r : Bool × Int × Int} :
    branchBytes q s = .ok r t ↔ BranchSuffix s.mem q r.1 r.2.1 r.2.2 ∧ t = s := by
  unfold branchBytes
  simp only [act_andThen_ok_iff, memByte_ok_iff]
  constructor
  · rintro ⟨b, s1, ⟨hb, rfl⟩, h⟩
    split at h
    · next h6 =>
      rw [act_answer_ok_iff] at h
      obtain ⟨rfl, rfl⟩ := h
      refine ⟨?_, rfl⟩
      rw [extract6_toNat]
      exact .short b hb h6
    · next h6 =>
      simp only [act_andThen_ok_iff, memByte_ok_iff, act_answer_ok_iff] at h
      obtain ⟨c, s2, ⟨hc, rfl⟩, rfl, rfl⟩ := h
      refine ⟨?_, rfl⟩
      unfold sext14
      rw [branchOffset_bit13, branchOffset_toNat]
      cases h5 : b.getLsbD 5 with
      | true => exact .longBackward b c hb hc (by simpa using h6) h5
      | false => exact .longForward b c hb hc (by simpa using h6) h5
  · rintro ⟨h, rfl⟩
    obtain ⟨p, off, after⟩ := r
    cases h with
    | short b hb h6 =>
      refine ⟨b, t, ⟨hb, rfl⟩, ?_⟩
      rw [if_pos h6, act_answer]
      simp only [extract6_toNat]
      rfl
    | longForward b c hb hc h6 h5 =>
      refine ⟨b, t, ⟨hb, rfl⟩, ?_⟩
      rw [if_neg (by rw [h6]; decide), act_andThen_ok (memByte_ok_iff.2 ⟨hc, rfl⟩), act_answer, sext14,
        branchOffset_bit13, branchOffset_toNat, h5]
      rfl
    | longBackward b c hb hc h6 h5 =>
      refine ⟨b, t, ⟨hb, rfl⟩, ?_⟩
      rw [if_neg (by rw [h6]; decide), act_andThen_ok (memByte_ok_iff.2 ⟨hc, rfl⟩), act_answer, sext14,
        branchOffset_bit13, branchOffset_toNat, h5]
      rfl

/-- A branch whose bytes are read does what its condition, polarity and offset say (R108). -/
theorem branch_of_suffix {s : State} {cond p : Bool} {q off after : Int}
    (h : BranchSuffix s.mem q p off after) :
    branch cond q s = branchTo (cond == p) off after s :=
  act_andThen_ok (branchBytes_ok_iff.2 ⟨h, rfl⟩ : branchBytes q s = .ok (p, off, after) s)

/-- What Branch can answer (R108). -/
theorem branch_ok_iff {cond : Bool} {q : Int} {s t : State} {u : Unit} :
    branch cond q s = .ok u t ↔ Branches s cond q t := by
  unfold branch
  simp only [act_andThen_ok_iff, branchBytes_ok_iff]
  constructor
  · rintro ⟨⟨p, off, after⟩, s1, ⟨hs, rfl⟩, h⟩
    simp only at hs h
    unfold branchTo at h
    split at h
    · next hc =>
      obtain rfl : cond = p := by simpa using hc
      split at h
      · next h0 =>
        subst h0
        exact .returnsFalse after t hs (returnWith_ok_iff.1 h)
      · next h0 =>
        split at h
        · next h1 =>
          subst h1
          exact .returnsTrue after t hs (returnWith_ok_iff.1 h)
        · next h1 =>
          obtain rfl := setPc_ok_iff.1 h
          exact .jumps off after hs h0 h1
    · next hc =>
      obtain rfl := setPc_ok_iff.1 h
      exact .stays p off after hs (by simpa using hc)
  · intro h
    cases h with
    | stays p off after hs hp =>
      refine ⟨(p, off, after), s, ⟨hs, rfl⟩, ?_⟩
      unfold branchTo
      rw [if_neg (by simpa using hp)]
      rfl
    | jumps off after hs h0 h1 =>
      refine ⟨(cond, off, after), s, ⟨hs, rfl⟩, ?_⟩
      unfold branchTo
      rw [if_pos (by simp), if_neg h0, if_neg h1]
      rfl
    | returnsFalse after t hs hr =>
      refine ⟨(cond, 0, after), s, ⟨hs, rfl⟩, ?_⟩
      unfold branchTo
      rw [if_pos (by simp), if_pos rfl]
      exact returnWith_ok_iff.2 hr
    | returnsTrue after t hs hr =>
      refine ⟨(cond, 1, after), s, ⟨hs, rfl⟩, ?_⟩
      unfold branchTo
      rw [if_pos (by simp), if_neg one_ne_zero, if_pos rfl]
      exact returnWith_ok_iff.2 hr

/-! ## Checks and ports -/

theorem checkDivisor_ok_iff {b : Word} {s t : State} {u : Unit} :
    checkDivisor b s = .ok u t ↔ b ≠ 0 ∧ t = s := by
  unfold checkDivisor
  split
  · next h => exact ⟨fun e => (raise_ok_iff.1 e).elim, fun e => absurd h e.1⟩
  · next h => rw [act_answer_ok_iff]; exact ⟨fun e => ⟨h, e.2.symm⟩, fun e => ⟨rfl, e.2.symm⟩⟩

theorem checkLocalCount_ok_iff {c : Byte} {s t : State} {u : Unit} :
    checkLocalCount c s = .ok u t ↔ c.toNat ≤ 15 ∧ t = s := by
  unfold checkLocalCount
  split
  · next h => simp only [raise, reduceCtorEq, false_iff]; omega
  · next h => rw [act_answer]; simp only [Res.ok.injEq]; grind

theorem checkDepth_ok_iff {s t : State} {u : Unit} :
    checkDepth s = .ok u t ↔ s.params.maxFrames ≠ some (s.callers.length + 1) ∧ t = s := by
  unfold checkDepth
  split <;> simp_all [eq_comm]

theorem objRead_ok_iff {o : Word} {s t : State} {g : GameObject} :
    objRead o s = .ok g t ↔ objectAt s.objs o = some g ∧ t = s := by
  unfold objRead
  cases objectAt s.objs o <;> simp [eq_comm]

theorem objCheckWrite_ok_iff {o : Word} {s t : State} {u : Unit} :
    objCheckWrite o s = .ok u t ↔ o ≠ 0 ∧ o.toNat ≤ s.objs.length ∧ t = s := by
  unfold objCheckWrite
  split
  · next h => simp only [reduceCtorEq, false_iff]; rintro ⟨h1, h2, _⟩; rcases h with h | h; exacts [h1 h, by omega]
  · next h => simp only [Res.ok.injEq]; grind

theorem attrCheck_ok_iff {a : Word} {s t : State} {u : Unit} :
    attrCheck a s = .ok u t ↔ a.toNat < 32 ∧ t = s := by
  unfold attrCheck
  split
  · next h => simp only [reduceCtorEq, false_iff]; omega
  · next h => simp only [Res.ok.injEq]; grind

theorem decodeText_ok_iff {p : Int} {s t : State} {r : Text × Int} :
    decodeText p s = .ok r t ↔
      ∃ cs, s.mem.codes p = .ok (cs, r.2) ∧ r.1 = decodeCodes s.abbrevs.toList cs ∧ t = s := by
  unfold decodeText
  cases s.mem.codes p with
  | error a => simp
  | ok c =>
    obtain ⟨cs, e⟩ := c
    obtain ⟨tx, e'⟩ := r
    simp only [Res.ok.injEq, Prod.mk.injEq, Except.ok.injEq]
    grind

/-! ## Handlers -/

/-- A handler that answers gives its state as the next state. -/
theorem runHandler_of_ok {i : Instr} {h : Inst → Act Unit} {s t : State} {u : Unit}
    (hh : h (i.inst s.cur.pc) s = .ok u t) : runHandler i h s = .next t := by
  simp [runHandler, hh, settle]

/-- A handler that raises takes the fault. -/
theorem runHandler_of_error {i : Instr} {h : Inst → Act Unit} {s t : State} {k : FaultKind}
    (hh : h (i.inst s.cur.pc) s = .error k t) : TakesFault (runHandler i h s) i s k := by
  refine ⟨_, rfl, ?_⟩
  rw [hh]
  exact ⟨rfl, rfl, rfl, rfl, rfl, rfl⟩

/-- What running a handler can answer: always a next state, which the handler gives, or which takes
the fault the handler raised. -/
theorem runHandler_cases (i : Instr) (h : Inst → Act Unit) (s : State) :
    (∃ t, h (i.inst s.cur.pc) s = .ok () t ∧ runHandler i h s = .next t) ∨
      ∃ k t, h (i.inst s.cur.pc) s = .error k t ∧ runHandler i h s = .next
        (t.takeFault k s.cur.pc (some i.shape.opbyte) (some i.shape.cls) i.shape.number) := by
  cases hh : h (i.inst s.cur.pc) s with
  | ok u t => exact .inl ⟨t, rfl, runHandler_of_ok hh⟩
  | error k t => exact .inr ⟨k, t, rfl, by rw [runHandler, hh]; rfl⟩

theorem takeFault_faulted (s : State) (k : FaultKind) (a : Int) (b : Option Byte)
    (c : Option OpClass) (n : Option (BitVec 5)) : (s.takeFault k a b c n).faulted = true := rfl

/-- A next state that has not faulted is the one the handler gives. -/
theorem ok_of_runHandler {i : Instr} {h : Inst → Act Unit} {s t : State}
    (hr : runHandler i h s = .next t) (hf : t.faulted = false) :
    h (i.inst s.cur.pc) s = .ok () t := by
  rcases runHandler_cases i h s with ⟨u, hu, he⟩ | ⟨k, u, hu, he⟩
  · rw [he] at hr; cases hr; exact hu
  · rw [he] at hr; cases hr; rw [takeFault_faulted] at hf; cases hf

/-- The state t is what taking a fault of instruction i, run at s, leaves (R261). -/
def FaultOf (i : Instr) (s t : State) : Prop :=
  ∃ k u, t = State.takeFault u k s.cur.pc (some i.shape.opbyte) (some i.shape.cls) i.shape.number

theorem not_faultOf {i : Instr} {s t : State} (hf : t.faulted = false) : ¬ FaultOf i s t := by
  rintro ⟨k, u, rfl⟩
  rw [takeFault_faulted] at hf
  cases hf

/-- A next state that is no fault of the instruction is given exactly when the handler answers it. -/
theorem runHandler_next_iff {i : Instr} {h : Inst → Act Unit} {s t : State}
    (hf : ¬ FaultOf i s t) :
    runHandler i h s = .next t ↔ h (i.inst s.cur.pc) s = .ok () t := by
  refine ⟨fun hr => ?_, runHandler_of_ok⟩
  rcases runHandler_cases i h s with ⟨u, hu, he⟩ | ⟨k, u, hu, he⟩
  · rw [he] at hr; cases hr; exact hu
  · rw [he] at hr; cases hr; exact absurd ⟨k, u, rfl⟩ hf

end Sys2Proof.Machine
end

