-- ==== Sys2Proof/Laws/Handlers.lean ====
section
/-! SUPPORT. What each instruction's handler can answer, in the relations of Safety.lean: one inversion
lemma for each meaning, from which the completion, frame and invariant statements follow without
unfolding a handler. -/

namespace Sys2Proof.Machine

/-! ## Shared handlers -/

theorem storeBinary_ok_iff {f : Word → Word → Word} {inst : Inst} {s t : State} {u : Unit} :
    storeBinary f inst s = .ok u t ↔ ∃ o1 o2 a b s1 s2 s3, inst.operands = [o1, o2] ∧
      Resolves s o1 a s1 ∧ Resolves s1 o2 b s2 ∧ StoresAt s2 inst.stop (f a b) s3 ∧
      t = s3.withPc (inst.stop + 1) := by
  unfold storeBinary
  simp only [act_andThen_ok_iff, operands2_ok_iff, storeResult_ok_iff, setPc_ok_iff]
  constructor
  · rintro ⟨⟨a, b⟩, s2, ⟨o1, o2, s1, ho, h1, h2⟩, q, s3, ⟨rfl, h3⟩, rfl⟩
    exact ⟨o1, o2, a, b, s1, s2, s3, ho, h1, h2, h3, rfl⟩
  · rintro ⟨o1, o2, a, b, s1, s2, s3, ho, h1, h2, h3, rfl⟩
    exact ⟨(a, b), s2, ⟨o1, o2, s1, ho, h1, h2⟩, _, s3, ⟨rfl, h3⟩, rfl⟩

theorem storeQuotient_ok_iff {f : Word → Word → Word} {inst : Inst} {s t : State} {u : Unit} :
    storeQuotient f inst s = .ok u t ↔ ∃ o1 o2 a b s1 s2 s3, inst.operands = [o1, o2] ∧
      Resolves s o1 a s1 ∧ Resolves s1 o2 b s2 ∧ b ≠ 0 ∧ StoresAt s2 inst.stop (f a b) s3 ∧
      t = s3.withPc (inst.stop + 1) := by
  unfold storeQuotient
  simp only [act_andThen_ok_iff, operands2_ok_iff, storeResult_ok_iff, setPc_ok_iff,
    checkDivisor_ok_iff]
  constructor
  · rintro ⟨⟨a, b⟩, s2, ⟨o1, o2, s1, ho, h1, h2⟩, _, _, ⟨hb, rfl⟩, q, s3, ⟨rfl, h3⟩, rfl⟩
    exact ⟨o1, o2, a, b, s1, _, s3, ho, h1, h2, hb, h3, rfl⟩
  · rintro ⟨o1, o2, a, b, s1, s2, s3, ho, h1, h2, hb, h3, rfl⟩
    exact ⟨(a, b), s2, ⟨o1, o2, s1, ho, h1, h2⟩, (), _, ⟨hb, rfl⟩, _, s3, ⟨rfl, h3⟩, rfl⟩

theorem changeVariable_ok_iff {f : Word → Word} {inst : Inst} {s t : State} {u : Unit} :
    changeVariable f inst s = .ok u t ↔ ∃ o v x s1 s2 s3, inst.operands = [o] ∧
      Resolves s o v s1 ∧ ReadsVar s1 v x s2 ∧ WritesVar s2 v (f x) s3 ∧
      t = s3.withPc inst.stop := by
  unfold changeVariable
  simp only [act_andThen_ok_iff, operand1_ok_iff, readVar_ok_iff, writeVar_ok_iff, setPc_ok_iff]
  constructor
  · rintro ⟨v, s1, ⟨o, ho, h1⟩, x, s2, h2, _, s3, h3, rfl⟩
    exact ⟨o, v, x, s1, s2, s3, ho, h1, h2, h3, rfl⟩
  · rintro ⟨o, v, x, s1, s2, s3, ho, h1, h2, h3, rfl⟩
    exact ⟨v, s1, ⟨o, ho, h1⟩, x, s2, h2, (), s3, h3, rfl⟩

theorem storeLinkAndBranch_ok_iff {link : GameObject → Word} {inst : Inst} {s t : State} {u : Unit} :
    storeLinkAndBranch link inst s = .ok u t ↔ ∃ o n g s1 s2, inst.operands = [o] ∧
      Resolves s o n s1 ∧ objectAt s1.objs n = some g ∧ StoresAt s1 inst.stop (link g) s2 ∧
      Branches s2 (link g != 0) (inst.stop + 1) t := by
  unfold storeLinkAndBranch
  simp only [act_andThen_ok_iff, operand1_ok_iff, objRead_ok_iff, storeResult_ok_iff, branch_ok_iff]
  constructor
  · rintro ⟨n, s1, ⟨o, ho, h1⟩, g, _, ⟨hg, rfl⟩, q, s2, ⟨rfl, h2⟩, h3⟩
    exact ⟨o, n, g, _, s2, ho, h1, hg, h2, h3⟩
  · rintro ⟨o, n, g, s1, s2, ho, h1, hg, h2, h3⟩
    exact ⟨n, s1, ⟨o, ho, h1⟩, g, _, ⟨hg, rfl⟩, _, s2, ⟨rfl, h2⟩, h3⟩

theorem writeAttr_ok_iff {x : Bool} {inst : Inst} {s t : State} {u : Unit} :
    writeAttr x inst s = .ok u t ↔ ∃ o1 o2 n a s1 s2, inst.operands = [o1, o2] ∧
      Resolves s o1 n s1 ∧ Resolves s1 o2 a s2 ∧ n ≠ 0 ∧ n.toNat ≤ s2.objs.length ∧ a.toNat < 32 ∧
      t = (s2.withObjs (modifyObject s2.objs n (·.withAttr a x))).withPc inst.stop := by
  unfold writeAttr objSetAttr
  simp only [act_andThen_ok_iff, operands2_ok_iff, objCheckWrite_ok_iff, attrCheck_ok_iff,
    update_ok_iff, setPc_ok_iff]
  constructor
  · rintro ⟨⟨n, a⟩, s2, ⟨o1, o2, s1, ho, h1, h2⟩, _, _, ⟨hn, hN, rfl⟩, _, _, ⟨ha, rfl⟩, _, _, rfl, rfl⟩
    exact ⟨o1, o2, n, a, s1, _, ho, h1, h2, hn, hN, ha, rfl⟩
  · rintro ⟨o1, o2, n, a, s1, s2, ho, h1, h2, hn, hN, ha, rfl⟩
    exact ⟨(n, a), s2, ⟨o1, o2, s1, ho, h1, h2⟩, (), _, ⟨hn, hN, rfl⟩, (), _, ⟨ha, rfl⟩, (), _, rfl,
      rfl⟩

theorem callNothing_ok_iff {stop : Int} {s t : State} {u : Unit} :
    callNothing stop s = .ok u t ↔ ∃ s1, StoresAt s stop 0 s1 ∧ t = s1.withPc (stop + 1) := by
  unfold callNothing
  simp only [act_andThen_ok_iff, storeResult_ok_iff, setPc_ok_iff]
  constructor
  · rintro ⟨q, s1, ⟨rfl, h⟩, rfl⟩; exact ⟨s1, h, rfl⟩
  · rintro ⟨s1, h, rfl⟩; exact ⟨_, s1, ⟨rfl, h⟩, rfl⟩

theorem enterRoutine_ok_iff {r : Word} {args : List Word} {stop : Int} {s t : State} {u : Unit} :
    enterRoutine r args stop s = .ok u t ↔ ∃ count ds, s.mem.readByte (unpack r) = some count ∧
      count.toNat ≤ 15 ∧ s.params.maxFrames ≠ some (s.callers.length + 1) ∧
      s.mem.readWords count.toNat (unpack r + 1) = .ok ds ∧
      t = s.withFrames ⟨unpack r + 1 + 2 * count.toNat, bindLocals ds args, []⟩
        ((s.withPc stop).cur :: s.callers) := by
  unfold enterRoutine pushFrame
  simp only [act_andThen_ok_iff, memByte_ok_iff, checkLocalCount_ok_iff, checkDepth_ok_iff,
    memWords_ok_iff, setPc_ok_iff, update_ok_iff]
  constructor
  · rintro ⟨c, _, ⟨hc, rfl⟩, _, _, ⟨hl, rfl⟩, _, _, ⟨hd, rfl⟩, ds, _, ⟨hw, rfl⟩, _, _, rfl, rfl⟩
    exact ⟨c, ds, hc, hl, hd, hw, rfl⟩
  · rintro ⟨c, ds, hc, hl, hd, hw, rfl⟩
    exact ⟨c, _, ⟨hc, rfl⟩, (), _, ⟨hl, rfl⟩, (), _, ⟨hd, rfl⟩, ds, _, ⟨hw, rfl⟩, (), _, rfl, rfl⟩

/-! ## Instructions: what a next state that is no fault is -/

theorem execStore_ok_iff {form : Form2OP} {ops : List Operand} {s t : State} (hf : ¬ FaultOf (.store form ops) s t) :
    exec (.store form ops) s = .next t ↔ ∃ o1 o2 v x s1 s2 s3, ops = [o1, o2] ∧
      Resolves s o1 v s1 ∧ Resolves s1 o2 x s2 ∧ WritesVar s2 v x s3 ∧
      t = s3.withPc (endOf (.store form ops) s) := by
  rw [exec, execStore]
  refine (runHandler_next_iff hf).trans ?_
  simp only [act_andThen_ok_iff, operands2_ok_iff, writeVar_ok_iff, setPc_ok_iff]
  constructor
  · rintro ⟨⟨v, x⟩, s2, ⟨o1, o2, s1, ho, h1, h2⟩, _, s3, h3, rfl⟩
    exact ⟨o1, o2, v, x, s1, s2, s3, ho, h1, h2, h3, rfl⟩
  · rintro ⟨o1, o2, v, x, s1, s2, s3, ho, h1, h2, h3, rfl⟩
    exact ⟨(v, x), s2, ⟨o1, o2, s1, ho, h1, h2⟩, (), s3, h3, rfl⟩

theorem execInc_ok_iff {o : Operand} {s t : State} (hf : ¬ FaultOf (.inc o) s t) :
    exec (.inc o) s = .next t ↔ ∃ v x s1 s2 s3, Resolves s o v s1 ∧ ReadsVar s1 v x s2 ∧
      WritesVar s2 v (x + 1) s3 ∧ t = s3.withPc (endOf (.inc o) s) := by
  refine (runHandler_next_iff hf).trans (changeVariable_ok_iff.trans ?_)
  constructor
  · rintro ⟨_, v, x, s1, s2, s3, ⟨⟩, h⟩; exact ⟨v, x, s1, s2, s3, h⟩
  · rintro ⟨v, x, s1, s2, s3, h⟩; exact ⟨_, v, x, s1, s2, s3, rfl, h⟩

theorem execDec_ok_iff {o : Operand} {s t : State} (hf : ¬ FaultOf (.dec o) s t) :
    exec (.dec o) s = .next t ↔ ∃ v x s1 s2 s3, Resolves s o v s1 ∧ ReadsVar s1 v x s2 ∧
      WritesVar s2 v (x - 1) s3 ∧ t = s3.withPc (endOf (.dec o) s) := by
  refine (runHandler_next_iff hf).trans (changeVariable_ok_iff.trans ?_)
  constructor
  · rintro ⟨_, v, x, s1, s2, s3, ⟨⟩, h⟩; exact ⟨v, x, s1, s2, s3, h⟩
  · rintro ⟨v, x, s1, s2, s3, h⟩; exact ⟨_, v, x, s1, s2, s3, rfl, h⟩

/-- add and sub, by the function they store. -/
theorem execBinary_ok_iff {i : Instr} {f : Word → Word → Word} {ops : List Operand} {s t : State}
    (hi : exec i s = runHandler i (storeBinary f) s) (ho : i.shape.operands = ops)
    (hf : ¬ FaultOf i s t) :
    exec i s = .next t ↔ ∃ o1 o2 a b s1 s2 s3, ops = [o1, o2] ∧
      Resolves s o1 a s1 ∧ Resolves s1 o2 b s2 ∧ StoresAt s2 (endOf i s) (f a b) s3 ∧
      t = s3.withPc (endOf i s + 1) := by
  subst ho
  rw [hi]
  exact (runHandler_next_iff hf).trans storeBinary_ok_iff

/-- div and mod, by the function they store. -/
theorem execQuotient_ok_iff {i : Instr} {f : Word → Word → Word} {ops : List Operand} {s t : State}
    (hi : exec i s = runHandler i (storeQuotient f) s) (ho : i.shape.operands = ops)
    (hf : ¬ FaultOf i s t) :
    exec i s = .next t ↔ ∃ o1 o2 a b s1 s2 s3, ops = [o1, o2] ∧
      Resolves s o1 a s1 ∧ Resolves s1 o2 b s2 ∧ b ≠ 0 ∧ StoresAt s2 (endOf i s) (f a b) s3 ∧
      t = s3.withPc (endOf i s + 1) := by
  subst ho
  rw [hi]
  exact (runHandler_next_iff hf).trans storeQuotient_ok_iff

/-- get_sibling and get_child, by the link they store. -/
theorem execLink_ok_iff {i : Instr} {link : GameObject → Word} {o : Operand} {s t : State}
    (hi : exec i s = runHandler i (storeLinkAndBranch link) s) (ho : i.shape.operands = [o])
    (hf : ¬ FaultOf i s t) :
    exec i s = .next t ↔ ∃ n g s1 s2, Resolves s o n s1 ∧ objectAt s1.objs n = some g ∧
      StoresAt s1 (endOf i s) (link g) s2 ∧ Branches s2 (link g != 0) (endOf i s + 1) t := by
  rw [hi]
  refine (runHandler_next_iff hf).trans (storeLinkAndBranch_ok_iff.trans ?_)
  change (∃ o' n g s1 s2, i.shape.operands = [o'] ∧ _) ↔ _
  rw [ho]
  constructor
  · rintro ⟨_, n, g, s1, s2, ⟨⟩, h⟩; exact ⟨n, g, s1, s2, h⟩
  · rintro ⟨n, g, s1, s2, h⟩; exact ⟨_, n, g, s1, s2, rfl, h⟩

theorem execGetParent_ok_iff {o : Operand} {s t : State} (hf : ¬ FaultOf (.getParent o) s t) :
    exec (.getParent o) s = .next t ↔ ∃ n g s1 s2, Resolves s o n s1 ∧ objectAt s1.objs n = some g ∧
      StoresAt s1 (endOf (.getParent o) s) g.parent s2 ∧
      t = s2.withPc (endOf (.getParent o) s + 1) := by
  rw [exec, execGetParent]
  refine (runHandler_next_iff hf).trans ?_
  simp only [act_andThen_ok_iff, operand1_ok_iff, objRead_ok_iff, storeResult_ok_iff, setPc_ok_iff]
  constructor
  · rintro ⟨n, _, ⟨_, ⟨⟩, h1⟩, g, _, ⟨hg, rfl⟩, q, s2, ⟨rfl, h2⟩, rfl⟩
    exact ⟨n, g, _, s2, h1, hg, h2, rfl⟩
  · rintro ⟨n, g, s1, s2, h1, hg, h2, rfl⟩
    exact ⟨n, s1, ⟨_, rfl, h1⟩, g, _, ⟨hg, rfl⟩, _, s2, ⟨rfl, h2⟩, rfl⟩

theorem execJin_ok_iff {form : Form2OP} {ops : List Operand} {s t : State} (hf : ¬ FaultOf (.jin form ops) s t) :
    exec (.jin form ops) s = .next t ↔ ∃ o1 o2 a b g s1 s2, ops = [o1, o2] ∧
      Resolves s o1 a s1 ∧ Resolves s1 o2 b s2 ∧ objectAt s2.objs a = some g ∧
      Branches s2 (g.parent == b) (endOf (.jin form ops) s) t := by
  rw [exec, execJin]
  refine (runHandler_next_iff hf).trans ?_
  simp only [act_andThen_ok_iff, operands2_ok_iff, objRead_ok_iff, branch_ok_iff]
  constructor
  · rintro ⟨⟨a, b⟩, _, ⟨o1, o2, s1, ho, h1, h2⟩, g, _, ⟨hg, rfl⟩, h3⟩
    exact ⟨o1, o2, a, b, g, s1, _, ho, h1, h2, hg, h3⟩
  · rintro ⟨o1, o2, a, b, g, s1, s2, ho, h1, h2, hg, h3⟩
    exact ⟨(a, b), s2, ⟨o1, o2, s1, ho, h1, h2⟩, g, _, ⟨hg, rfl⟩, h3⟩

theorem execTestAttr_ok_iff {form : Form2OP} {ops : List Operand} {s t : State}
    (hf : ¬ FaultOf (.testAttr form ops) s t) :
    exec (.testAttr form ops) s = .next t ↔ ∃ o1 o2 n a g s1 s2, ops = [o1, o2] ∧
      Resolves s o1 n s1 ∧ Resolves s1 o2 a s2 ∧ objectAt s2.objs n = some g ∧ a.toNat < 32 ∧
      Branches s2 (g.attr a) (endOf (.testAttr form ops) s) t := by
  rw [exec, execTestAttr]
  refine (runHandler_next_iff hf).trans ?_
  simp only [act_andThen_ok_iff, operands2_ok_iff, objRead_ok_iff, attrCheck_ok_iff, branch_ok_iff]
  constructor
  · rintro ⟨⟨n, a⟩, _, ⟨o1, o2, s1, ho, h1, h2⟩, g, _, ⟨hg, rfl⟩, _, _, ⟨ha, rfl⟩, h3⟩
    exact ⟨o1, o2, n, a, g, s1, _, ho, h1, h2, hg, ha, h3⟩
  · rintro ⟨o1, o2, n, a, g, s1, s2, ho, h1, h2, hg, ha, h3⟩
    exact ⟨(n, a), s2, ⟨o1, o2, s1, ho, h1, h2⟩, g, _, ⟨hg, rfl⟩, (), _, ⟨ha, rfl⟩, h3⟩

/-- set_attr and clear_attr, by the flag they write. -/
theorem execWriteAttr_ok_iff {i : Instr} {x : Bool} {ops : List Operand} {s t : State}
    (hi : exec i s = runHandler i (writeAttr x) s) (ho : i.shape.operands = ops)
    (hf : ¬ FaultOf i s t) :
    exec i s = .next t ↔ ∃ o1 o2 n a s1 s2, ops = [o1, o2] ∧
      Resolves s o1 n s1 ∧ Resolves s1 o2 a s2 ∧ n ≠ 0 ∧ n.toNat ≤ s2.objs.length ∧ a.toNat < 32 ∧
      t = (s2.withObjs (modifyObject s2.objs n (·.withAttr a x))).withPc (endOf i s) := by
  subst ho
  rw [hi]
  exact (runHandler_next_iff hf).trans writeAttr_ok_iff

theorem execInsertObj_ok_iff {form : Form2OP} {ops : List Operand} {s t : State}
    (hf : ¬ FaultOf (.insertObj form ops) s t) :
    exec (.insertObj form ops) s = .next t ↔ ∃ o1 o2 o d s1 s2, ops = [o1, o2] ∧
      Resolves s o1 o s1 ∧ Resolves s1 o2 d s2 ∧ o ≠ 0 ∧ o.toNat ≤ s2.objs.length ∧
      d ≠ 0 ∧ d.toNat ≤ s2.objs.length ∧
      t = (s2.withObjs (insertRecord s2.objs o d)).withPc (endOf (.insertObj form ops) s) := by
  rw [exec, execInsertObj]
  refine (runHandler_next_iff hf).trans ?_
  unfold objInsert
  simp only [act_andThen_ok_iff, operands2_ok_iff, objCheckWrite_ok_iff, update_ok_iff, setPc_ok_iff]
  constructor
  · rintro ⟨⟨o, d⟩, _, ⟨o1, o2, s1, ho, h1, h2⟩, _, _, ⟨hn, hN, rfl⟩, _, _, ⟨hd, hD, rfl⟩, _, _, rfl,
      rfl⟩
    exact ⟨o1, o2, o, d, s1, _, ho, h1, h2, hn, hN, hd, hD, rfl⟩
  · rintro ⟨o1, o2, o, d, s1, s2, ho, h1, h2, hn, hN, hd, hD, rfl⟩
    exact ⟨(o, d), s2, ⟨o1, o2, s1, ho, h1, h2⟩, (), _, ⟨hn, hN, rfl⟩, (), _, ⟨hd, hD, rfl⟩, (), _,
      rfl, rfl⟩

theorem execCall_ok_iff {ops : List Operand} {s t : State} (hf : ¬ FaultOf (.call ops) s t) :
    exec (.call ops) s = .next t ↔ ∃ o os r args s1, ops = o :: os ∧ os.length ≤ 3 ∧
      ResolvesAll s (o :: os) (r :: args) s1 ∧
      ((r = 0 ∧ ∃ s2, StoresAt s1 (endOf (.call ops) s) 0 s2 ∧
          t = s2.withPc (endOf (.call ops) s + 1)) ∨
        (r ≠ 0 ∧ ∃ count ds, s1.mem.readByte (unpack r) = some count ∧ count.toNat ≤ 15 ∧
          s1.params.maxFrames ≠ some (s1.callers.length + 1) ∧
          s1.mem.readWords count.toNat (unpack r + 1) = .ok ds ∧
          t = s1.withFrames ⟨unpack r + 1 + 2 * count.toNat, bindLocals ds args, []⟩
            ((s1.withPc (endOf (.call ops) s)).cur :: s1.callers))) := by
  rw [exec, execCall]
  refine (runHandler_next_iff hf).trans ?_
  simp only [act_andThen_ok_iff, operandsCall_ok_iff]
  constructor
  · rintro ⟨⟨r, args⟩, s1, ⟨o, os, ho, hl, h1⟩, h⟩
    refine ⟨o, os, r, args, s1, ho, hl, h1, ?_⟩
    split at h
    · next h0 => exact .inl ⟨h0, callNothing_ok_iff.1 h⟩
    · next h0 => exact .inr ⟨h0, enterRoutine_ok_iff.1 h⟩
  · rintro ⟨o, os, r, args, s1, ho, hl, h1, h⟩
    refine ⟨(r, args), s1, ⟨o, os, ho, hl, h1⟩, ?_⟩
    rcases h with ⟨h0, h⟩ | ⟨h0, h⟩
    · rw [if_pos h0]; exact callNothing_ok_iff.2 h
    · rw [if_neg h0]; exact enterRoutine_ok_iff.2 h

theorem execRet_ok_iff {o : Operand} {s t : State} (hf : ¬ FaultOf (.ret o) s t) :
    exec (.ret o) s = .next t ↔ ∃ x s1, Resolves s o x s1 ∧ Returns s1 x t := by
  rw [exec, execRet]
  refine (runHandler_next_iff hf).trans ?_
  simp only [act_andThen_ok_iff, operand1_ok_iff, returnWith_ok_iff]
  constructor
  · rintro ⟨x, s1, ⟨_, ⟨⟩, h1⟩, h2⟩; exact ⟨x, s1, h1, h2⟩
  · rintro ⟨x, s1, h1, h2⟩; exact ⟨x, s1, ⟨_, rfl, h1⟩, h2⟩

theorem execRtrue_ok_iff {s t : State} (hf : ¬ FaultOf .rtrue s t) :
    exec .rtrue s = .next t ↔ Returns s 1 t := by
  rw [exec, execRtrue]
  exact (runHandler_next_iff hf).trans returnWith_ok_iff

theorem execRfalse_ok_iff {s t : State} (hf : ¬ FaultOf .rfalse s t) :
    exec .rfalse s = .next t ↔ Returns s 0 t := by
  rw [exec, execRfalse]
  exact (runHandler_next_iff hf).trans returnWith_ok_iff

theorem execQuit_eq (s : State) : exec .quit s = .next (s.haltNormally s.cur.pc) := rfl

theorem execPrint_ok_iff {s t : State} (hf : ¬ FaultOf .print s t) :
    exec .print s = .next t ↔ ∃ cs e, s.mem.codes (endOf .print s) = .ok (cs, e) ∧
      t = (s.emit (.print (decodeCodes s.abbrevs.toList cs))).withPc e := by
  rw [exec, execPrint]
  refine (runHandler_next_iff hf).trans ?_
  simp only [act_andThen_ok_iff, decodeText_ok_iff, emit_ok_iff, setPc_ok_iff]
  constructor
  · rintro ⟨⟨tx, e⟩, _, ⟨cs, h, rfl, rfl⟩, _, _, rfl, rfl⟩; exact ⟨cs, e, h, rfl⟩
  · rintro ⟨cs, e, h, rfl⟩; exact ⟨(_, e), s, ⟨cs, h, rfl, rfl⟩, (), _, rfl, rfl⟩

theorem execPrintObj_ok_iff {o : Operand} {s t : State} (hf : ¬ FaultOf (.printObj o) s t) :
    exec (.printObj o) s = .next t ↔ ∃ n g s1, Resolves s o n s1 ∧ objectAt s1.objs n = some g ∧
      t = (s1.emit (.print g.name)).withPc (endOf (.printObj o) s) := by
  rw [exec, execPrintObj]
  refine (runHandler_next_iff hf).trans ?_
  simp only [act_andThen_ok_iff, operand1_ok_iff, objRead_ok_iff, emit_ok_iff, setPc_ok_iff]
  constructor
  · rintro ⟨n, _, ⟨_, ⟨⟩, h1⟩, g, _, ⟨hg, rfl⟩, _, _, rfl, rfl⟩; exact ⟨n, g, _, h1, hg, rfl⟩
  · rintro ⟨n, g, s1, h1, hg, rfl⟩; exact ⟨n, s1, ⟨_, rfl, h1⟩, g, _, ⟨hg, rfl⟩, (), _, rfl, rfl⟩

theorem execPrintNum_ok_iff {ops : List Operand} {s t : State} (hf : ¬ FaultOf (.printNum ops) s t) :
    exec (.printNum ops) s = .next t ↔ ∃ o v s1, ops = [o] ∧ Resolves s o v s1 ∧
      t = (s1.emit (.print (decimal (s16 v)))).withPc (endOf (.printNum ops) s) := by
  rw [exec, execPrintNum]
  refine (runHandler_next_iff hf).trans ?_
  simp only [act_andThen_ok_iff, operand1_ok_iff, emit_ok_iff, setPc_ok_iff]
  constructor
  · rintro ⟨v, s1, ⟨o, ho, h1⟩, _, _, rfl, rfl⟩; exact ⟨o, v, s1, ho, h1, rfl⟩
  · rintro ⟨o, v, s1, ho, h1, rfl⟩; exact ⟨v, s1, ⟨o, ho, h1⟩, (), _, rfl, rfl⟩

theorem execPrintChar_ok_iff {ops : List Operand} {s t : State} (hf : ¬ FaultOf (.printChar ops) s t) :
    exec (.printChar ops) s = .next t ↔ ∃ o v s1, ops = [o] ∧ Resolves s o v s1 ∧
      t = (s1.emit (.print (zsciiOut v))).withPc (endOf (.printChar ops) s) := by
  rw [exec, execPrintChar]
  refine (runHandler_next_iff hf).trans ?_
  simp only [act_andThen_ok_iff, operand1_ok_iff, emit_ok_iff, setPc_ok_iff]
  constructor
  · rintro ⟨v, s1, ⟨o, ho, h1⟩, _, _, rfl, rfl⟩; exact ⟨o, v, s1, ho, h1, rfl⟩
  · rintro ⟨o, v, s1, ho, h1, rfl⟩; exact ⟨v, s1, ⟨o, ho, h1⟩, (), _, rfl, rfl⟩

theorem execNewLine_eq (s : State) :
    exec .newLine s = .next ((s.emit .newLine).withPc (endOf .newLine s)) := rfl

end Sys2Proof.Machine
end

