-- ==== Sys2Proof/Laws/Memory.lean ====
section
/-! SUPPORT. The image: what a read sees after a write, and that every write keeps the canonical form. -/

namespace Sys2Proof.Machine

/-! ## Cells -/

theorem lookupCell_insertCell (cells : List Host.Cell) (a b : Nat) (v : Byte) :
    lookupCell (insertCell a v cells) b = if b = a then v else lookupCell cells b := by
  induction cells with
  | nil => simp [insertCell, lookupCell, eq_comm]
  | cons c rest ih =>
    unfold insertCell
    by_cases hba : b = a
    · subst hba
      split
      · simp [lookupCell]
      · split
        · simp [lookupCell]
        · next h => simp [lookupCell, ih, Ne.symm h]
    · split
      · simp [lookupCell, Ne.symm hba]
      · split
        · next h => simp [lookupCell, Ne.symm hba, ← h]
        · simp [lookupCell, ih, hba]

theorem lookupCell_filter (cells : List Host.Cell) (a b : Nat) :
    lookupCell (cells.filter fun c => decide (c.1 ≠ a)) b =
      if b = a then Memory.unlisted else lookupCell cells b := by
  induction cells with
  | nil => simp [lookupCell]
  | cons c rest ih =>
    by_cases h : c.1 = a
    · rw [List.filter_cons_of_neg (by simpa using h), ih]
      by_cases hba : b = a
      · simp [hba]
      · simp [lookupCell, h, hba, Ne.symm hba]
    · rw [List.filter_cons_of_pos (by simpa using h)]
      simp only [lookupCell, ih]
      by_cases hba : b = a
      · subst hba; simp [h]
      · simp [hba]

/-- A cell set reads back, and every other cell reads as before. -/
theorem lookupCell_setCell (cells : List Host.Cell) (a b : Nat) (v : Byte) :
    lookupCell (setCell a v cells) b = if b = a then v else lookupCell cells b := by
  unfold setCell
  split
  · next h => rw [lookupCell_filter, h]
  · exact lookupCell_insertCell cells a b v

/-! ## The canonical form -/

theorem Memory.wf_iff (m : Memory) :
    m.wf = true ↔ m.cells.Pairwise (fun c d => c.1 < d.1) ∧
      ∀ c ∈ m.cells, c.1 < m.size ∧ c.2 ≠ Memory.unlisted := by
  simp [Memory.wf]

theorem mem_insertCell {cells : List Host.Cell} {a : Nat} {v : Byte} {c : Host.Cell}
    (h : c ∈ insertCell a v cells) : c = (a, v) ∨ c ∈ cells := by
  induction cells with
  | nil => simpa [insertCell] using h
  | cons d rest ih =>
    unfold insertCell at h
    split at h
    · simpa using h
    · split at h
      · simp only [List.mem_cons] at h ⊢; tauto
      · simp only [List.mem_cons] at h ⊢
        rcases h with h | h
        · tauto
        · have := ih h; tauto

theorem insertCell_pairwise {cells : List Host.Cell} (a : Nat) (v : Byte)
    (h : cells.Pairwise (fun c d => c.1 < d.1)) :
    (insertCell a v cells).Pairwise (fun c d => c.1 < d.1) := by
  induction cells with
  | nil => simp [insertCell]
  | cons d rest ih =>
    obtain ⟨hd, hr⟩ := List.pairwise_cons.1 h
    unfold insertCell
    split
    · next ha =>
      refine List.pairwise_cons.2 ⟨fun c hc => ?_, h⟩
      rcases List.mem_cons.1 hc with rfl | hc
      · exact ha
      · exact ha.trans (hd c hc)
    · next ha =>
      split
      · next he =>
        refine List.pairwise_cons.2 ⟨fun c hc => ?_, hr⟩
        simpa [he] using hd c hc
      · next hne =>
        refine List.pairwise_cons.2 ⟨fun c hc => ?_, ih hr⟩
        rcases mem_insertCell hc with rfl | hc
        · simp only; omega
        · exact hd c hc

/-- Setting a cell inside the image keeps the canonical form. -/
theorem Memory.wf_setCell {m : Memory} {a : Nat} (v : Byte) (h : m.wf = true) (ha : a < m.size) :
    Memory.wf { m with cells := setCell a v m.cells } = true := by
  rw [Memory.wf_iff] at h ⊢
  obtain ⟨hp, hc⟩ := h
  simp only [setCell]
  split
  · exact ⟨hp.filter _, fun c hm => hc c (List.mem_of_mem_filter hm)⟩
  · next hv =>
    refine ⟨insertCell_pairwise a v hp, fun c hm => ?_⟩
    rcases mem_insertCell hm with rfl | hm
    · exact ⟨ha, hv⟩
    · exact hc c hm

theorem Memory.has_iff (m : Memory) (a : Int) : m.has a = true ↔ 0 ≤ a ∧ a < m.size := by
  simp [Memory.has]

/-- A one-byte write keeps the canonical form. -/
theorem Memory.writeByte_wf {m m' : Memory} {a : Int} {v : Byte} (h : m.wf = true)
    (hw : m.writeByte a v = some m') : m'.wf = true := by
  unfold Memory.writeByte at hw
  split at hw
  · next ha =>
    rw [Memory.has_iff] at ha
    cases hw
    exact Memory.wf_setCell v h (by omega)
  · cases hw

/-- A two-byte write keeps the canonical form. -/
theorem Memory.writeWord_wf {m m' : Memory} {a : Int} {v : Word} (h : m.wf = true)
    (hw : m.writeWord a v = some m') : m'.wf = true := by
  unfold Memory.writeWord at hw
  split at hw
  · next ha =>
    simp only [Bool.and_eq_true, Memory.has_iff] at ha
    cases hw
    exact Memory.wf_setCell (m := ⟨m.size, _⟩) _ (Memory.wf_setCell _ h (by omega))
      (by simp only; omega)
  · cases hw

/-- Growing the image keeps the canonical form. -/
theorem Memory.wf_grow {m : Memory} (n : Nat) (h : m.wf = true) :
    Memory.wf ⟨max m.size n, m.cells⟩ = true := by
  rw [Memory.wf_iff] at h ⊢
  exact ⟨h.1, fun c hc => ⟨by have := (h.2 c hc).1; simp only; omega, (h.2 c hc).2⟩⟩

/-- Placing bytes keeps the canonical form. -/
theorem Memory.place_wf {m : Memory} (a : Nat) (bs : List Byte) (h : m.wf = true) :
    (m.place a bs).wf = true := by
  induction bs generalizing m a with
  | nil => exact h
  | cons b bs ih =>
    exact ih _ (Memory.wf_setCell (m := ⟨max m.size (a + 1), m.cells⟩) b (Memory.wf_grow _ h)
      (by simp only; omega))

/-! ## Reads -/

theorem Memory.readByte_some_iff {m : Memory} {a : Int} {b : Byte} :
    m.readByte a = some b ↔ 0 ≤ a ∧ a < m.size ∧ lookupCell m.cells a.toNat = b := by
  unfold Memory.readByte
  by_cases h : m.has a
  · have := (Memory.has_iff m a).1 h
    simp [h, this]
  · have : ¬(0 ≤ a ∧ a < m.size) := fun h' => h ((Memory.has_iff m a).2 h')
    simp only [h, Bool.false_eq_true, if_false, reduceCtorEq, false_iff]
    tauto

theorem Memory.readByte_none_iff {m : Memory} {a : Int} :
    m.readByte a = none ↔ a < 0 ∨ (m.size : Int) ≤ a := by
  unfold Memory.readByte
  by_cases h : m.has a
  · have := (Memory.has_iff m a).1 h
    simp only [h, if_true, reduceCtorEq, false_iff]; omega
  · have : ¬(0 ≤ a ∧ a < m.size) := fun h' => h ((Memory.has_iff m a).2 h')
    simp only [h, Bool.false_eq_true, if_false, true_iff]; omega

/-- What a read sees after a one-byte write: the byte written, or what it saw before. -/
theorem Memory.readByte_writeByte {m m' : Memory} {a : Int} {v : Byte}
    (hw : m.writeByte a v = some m') (b : Int) :
    m'.readByte b = if b = a then some v else m.readByte b := by
  unfold Memory.writeByte at hw
  split at hw
  · next ha =>
    cases hw
    have ha' := (Memory.has_iff m a).1 ha
    by_cases hb : m.has b
    · have hb' := (Memory.has_iff m b).1 hb
      have : Memory.has { m with cells := setCell a.toNat v m.cells } b = true := hb
      simp only [Memory.readByte, this, hb, if_true, lookupCell_setCell]
      have e : b.toNat = a.toNat ↔ b = a := by omega
      simp only [e]; split <;> rfl
    · have : ¬ Memory.has { m with cells := setCell a.toNat v m.cells } b = true := hb
      have e : b ≠ a := fun e => hb (e ▸ ha)
      simp [Memory.readByte, this, hb, e]
  · cases hw

/-- What a read sees after a two-byte write. -/
theorem Memory.readByte_writeWord {m m' : Memory} {a : Int} {v : Word}
    (hw : m.writeWord a v = some m') (b : Int) :
    m'.readByte b = if b = a then some (v.extractLsb' 8 8)
      else if b = a + 1 then some (v.extractLsb' 0 8) else m.readByte b := by
  unfold Memory.writeWord at hw
  split at hw
  · next ha =>
    simp only [Bool.and_eq_true] at ha
    have h1 : m.writeByte a (v.extractLsb' 8 8) =
        some { m with cells := setCell a.toNat (v.extractLsb' 8 8) m.cells } := by
      simp [Memory.writeByte, ha.1]
    have h2 : Memory.writeByte { m with cells := setCell a.toNat (v.extractLsb' 8 8) m.cells } (a + 1)
        (v.extractLsb' 0 8) = some m' := by
      cases hw
      have : Memory.has { m with cells := setCell a.toNat (v.extractLsb' 8 8) m.cells } (a + 1) = true :=
        ha.2
      simp [Memory.writeByte, this]
    rw [Memory.readByte_writeByte h2, Memory.readByte_writeByte h1]
    by_cases e1 : b = a + 1
    · simp [e1]
    · simp [e1]
  · cases hw

theorem Memory.readWord_some_iff {m : Memory} {a : Int} {w : Word} :
    m.readWord a = some w ↔
      ∃ hi lo, m.readByte a = some hi ∧ m.readByte (a + 1) = some lo ∧ w = wordOfBytes hi lo := by
  unfold Memory.readWord
  split
  · next hi lo h1 h2 => simp [h1, h2, eq_comm]
  · next h =>
    simp only [reduceCtorEq, false_iff, not_exists, not_and]
    intro hi lo h1 h2
    exact absurd h2 (h hi lo h1)

end Sys2Proof.Machine
end

