-- ==== Sys2Proof/Laws/Keeps.lean ====
section
/-! SUPPORT. What each relation of Safety.lean leaves unchanged: operands change only the current
evaluation stack, a write only the variable it names, a suffix or a return only frames and globals. -/

namespace Sys2Proof.Machine

/-! ## Operands only pop -/

theorem ReadsVar.pops {s t : State} {v x : Word} (h : ReadsVar s v x t) :
    ∃ k, k <:+ s.cur.stack ∧ t = s.withStack k := by
  cases h with
  | stack _ k hk => exact ⟨k, hk ▸ List.suffix_cons _ _, rfl⟩
  | slot => exact ⟨_, List.suffix_refl _, rfl⟩
  | globalCell => exact ⟨_, List.suffix_refl _, rfl⟩

theorem Resolves.pops {s t : State} {o : Operand} {x : Word} (h : Resolves s o x t) :
    ∃ k, k <:+ s.cur.stack ∧ t = s.withStack k := by
  cases h with
  | large => exact ⟨_, List.suffix_refl _, rfl⟩
  | small => exact ⟨_, List.suffix_refl _, rfl⟩
  | var b _ _ h => exact ReadsVar.pops h

theorem Resolves.pops2 {s s1 t : State} {o1 o2 : Operand} {x y : Word} (h1 : Resolves s o1 x s1)
    (h2 : Resolves s1 o2 y t) : ∃ k, k <:+ s.cur.stack ∧ t = s.withStack k := by
  obtain ⟨k, hk, rfl⟩ := h1.pops
  obtain ⟨l, hl, rfl⟩ := h2.pops
  exact ⟨l, hl.trans hk, rfl⟩

theorem ResolvesAll.pops {s t : State} {os : List Operand} {xs : List Word}
    (h : ResolvesAll s os xs t) : ∃ k, k <:+ s.cur.stack ∧ t = s.withStack k := by
  induction h with
  | nil s => exact ⟨_, List.suffix_refl _, rfl⟩
  | cons s o x s1 os xs t h1 _ ih =>
    obtain ⟨k, hk, rfl⟩ := h1.pops
    obtain ⟨l, hl, rfl⟩ := ih
    exact ⟨l, hl.trans hk, rfl⟩

/-! ## Writes of a variable, suffixes, returns and branches -/

/-- A write keeps everything but globals and the current frame, and that frame's pc. -/
theorem WritesVar.keeps {s t : State} {v x : Word} (h : WritesVar s v x t) :
    t = { s with globals := t.globals, cur := t.cur } ∧ t.cur.pc = s.cur.pc := by
  cases h <;> exact ⟨rfl, rfl⟩

/-- A write leaves the current evaluation stack, or pushes one word within the bound. -/
theorem WritesVar.stack_cases {s t : State} {v x : Word} (h : WritesVar s v x t) :
    t.cur.stack = s.cur.stack ∨
      v = 0 ∧ t.cur.stack = x :: s.cur.stack ∧ s.params.maxEvalStack ≠ some s.cur.stack.length := by
  cases h with
  | stack _ hk => exact .inr ⟨rfl, rfl, hk⟩
  | slot => exact .inl rfl
  | globalCell => exact .inl rfl

theorem StoresAt.keeps {s t : State} {q : Int} {x : Word} (h : StoresAt s q x t) :
    t = { s with globals := t.globals, cur := t.cur } ∧ t.cur.pc = s.cur.pc := by
  obtain ⟨v, _, h⟩ := h
  exact h.keeps

/-- A return keeps everything but globals and the frames, pops one frame and leaves the caller one
byte past its store byte. -/
theorem Returns.keeps {s t : State} {x : Word} (h : Returns s x t) :
    ∃ f, s.callers = f :: t.callers ∧ t.cur.pc = f.pc + 1 ∧
      t = { s with globals := t.globals, cur := t.cur, callers := t.callers } := by
  obtain ⟨f, cs, u, hc, hs, rfl⟩ := h
  have hk := hs.keeps.1
  rw [hk]
  exact ⟨f, hc, rfl, rfl⟩

/-- A branch changes the pc, or returns. -/
theorem Branches.pc_or_returns {s t : State} {cond : Bool} {q : Int} (h : Branches s cond q t) :
    (∃ a, t = s.withPc a) ∨ ∃ x, Returns s x t := by
  cases h with
  | stays => exact .inl ⟨_, rfl⟩
  | jumps => exact .inl ⟨_, rfl⟩
  | returnsFalse _ _ _ h => exact .inr ⟨_, h⟩
  | returnsTrue _ _ _ h => exact .inr ⟨_, h⟩

/-! ## Objects -/

theorem modifyObject_length (os : List GameObject) (o : Word) (f : GameObject → GameObject) :
    (modifyObject os o f).length = os.length := by
  unfold modifyObject
  split <;> simp

theorem insertRecord_length (os : List GameObject) (o d : Word) :
    (insertRecord os o d).length = os.length := by
  simp [insertRecord, modifyObject_length]

/-- A change of one record that keeps its name keeps every name. -/
theorem modifyObject_names (os : List GameObject) (o : Word) (f : GameObject → GameObject)
    (hf : ∀ g, (f g).name = g.name) :
    (modifyObject os o f).map (·.name) = os.map (·.name) := by
  unfold modifyObject
  split
  · rfl
  · apply List.ext_getElem?
    intro j
    simp only [List.getElem?_map, List.getElem?_modify]
    split
    · cases os[j]? <;> simp [hf]
    · cases os[j]? <;> simp

theorem insertRecord_names (os : List GameObject) (o d : Word) :
    (insertRecord os o d).map (·.name) = os.map (·.name) := by
  unfold insertRecord
  refine (modifyObject_names _ _ _ ?_).trans ((modifyObject_names _ _ _ ?_).trans
    (modifyObject_names _ _ _ ?_)) <;> exact fun _ => rfl

/-- A property of every record is kept by a change of one record that keeps it. -/
theorem forall_modifyObject {p : GameObject → Prop} {os : List GameObject} {o : Word}
    {f : GameObject → GameObject} (h : ∀ g ∈ os, p g) (hf : ∀ g ∈ os, p g → p (f g)) :
    ∀ g ∈ modifyObject os o f, p g := by
  unfold modifyObject
  split
  · exact h
  · intro g hg
    obtain ⟨j, hj⟩ := List.mem_iff_getElem?.1 hg
    rw [List.getElem?_modify] at hj
    obtain ⟨g0, h0, rfl⟩ := Option.map_eq_some_iff.1 hj
    have hm := List.mem_iff_getElem?.2 ⟨j, h0⟩
    split
    · exact hf g0 hm (h g0 hm)
    · exact h g0 hm

theorem sees_of_objectAt {s : State} {n : Word} {g : GameObject} (h : objectAt s.objs n = some g) :
    SeesObject s n g := by
  unfold objectAt at h
  split at h
  · next h0 =>
    cases h
    refine .inl ⟨h0, rfl, rfl, rfl, rfl, fun a ha => ?_⟩
    simp [sentinel, ha]
  · next h0 => exact .inr ⟨h0, h⟩

/-- A record SeesObject gives is the one the port reads. -/
theorem objectAt_of_sees {s : State} {n : Word} {g : GameObject} (h : SeesObject s n g) :
    objectAt s.objs n = some g := by
  unfold objectAt
  rcases h with ⟨h0, h1, h2, h3, h4, h5⟩ | ⟨h0, h⟩
  · rw [if_pos h0]
    obtain ⟨p, sb, c, at', nm⟩ := g
    simp only at h1 h2 h3 h4 h5
    subst h1 h2 h3 h4
    have : at' = Vector.replicate 32 false := by
      apply Vector.ext
      intro j hj
      have := h5 j hj
      rw [Vector.getElem?_eq_getElem hj] at this
      simpa using this
    rw [this]
    rfl
  · rw [if_neg h0, h]

end Sys2Proof.Machine
end

