-- ==== Sys2Proof/Laws/Effects.lean ====
section
/-! SUPPORT. Everything an instruction can do to the state when it does not fault, said once: the
invariant and frame statements are case analyses of it and unfold no meaning. -/

namespace Sys2Proof.Machine

/-- The effect of instruction i from s to t. In every case k is what the operands leave of the current
evaluation stack. -/
inductive Effect (i : Instr) (s : State) : State → Prop where
  /-- Only the pc moves: a branch that does not return. -/
  | moves (k : List Word) (a : Int) : k <:+ s.cur.stack →
      (∃ form ops, i = .jin form ops ∨ i = .testAttr form ops) →
      Effect i s ((s.withStack k).withPc a)
  /-- A variable is written: through the store byte at the end address, or by reference. -/
  | writes (k : List Word) (v x : Word) (u : State) (a : Int) : k <:+ s.cur.stack →
      WritesVar (s.withStack k) v x u →
      ((∃ form ops o, i ∈ [Instr.add form ops, .sub form ops, .div form ops, .mod form ops, .getParent o,
          .call ops]) ∧ (∃ b : Byte, s.mem.readByte (endOf i s) = some b ∧ v = b.setWidth 16) ∧
          a = endOf i s + 1 ∨
        (∃ o, i = .getSibling o ∨ i = .getChild o) ∧
          (∃ b : Byte, s.mem.readByte (endOf i s) = some b ∧ v = b.setWidth 16) ∨
        (∃ form o o2 s1, i ∈ [Instr.store form [o, o2], .inc o, .dec o] ∧ Resolves s o v s1) ∧
          a = endOf i s) →
      Effect i s (u.withPc a)
  /-- A return, perhaps by a branch. -/
  | returns (k : List Word) (x : Word) (t : State) : k <:+ s.cur.stack →
      Returns (s.withStack k) x t →
      (i = .rtrue ∨ i = .rfalse ∨ (∃ o, i = .ret o) ∨
        ∃ form ops, i = .jin form ops ∨ i = .testAttr form ops) →
      Effect i s t
  /-- A link is stored and then the branch returns. -/
  | writesReturns (k : List Word) (v x y : Word) (u t : State) : k <:+ s.cur.stack →
      (∃ b : Byte, s.mem.readByte (endOf i s) = some b ∧ v = b.setWidth 16) →
      WritesVar (s.withStack k) v x u → Returns u y t → (∃ o, i = .getSibling o ∨ i = .getChild o) →
      Effect i s t
  /-- A routine is entered. -/
  | enters (k : List Word) (f : Frame) (ops : List Operand) : k <:+ s.cur.stack → i = .call ops →
      f.stack = [] → s.params.maxFrames ≠ some (s.callers.length + 1) →
      Effect i s (s.withFrames f (((s.withStack k).withPc (endOf i s)).cur :: s.callers))
  /-- The sink gets one call. -/
  | emits (k : List Word) (c : SinkCall) (a : Int) : k <:+ s.cur.stack →
      (i = .print ∨ i = .newLine ∨ (∃ o, i = .printObj o) ∨
        ∃ ops, i = .printNum ops ∨ i = .printChar ops) →
      Effect i s (((s.withStack k).emit c).withPc a)
  /-- A flag of an object is written. -/
  | flags (k : List Word) (n a : Word) (x : Bool) : k <:+ s.cur.stack → n ≠ 0 →
      n.toNat ≤ s.objs.length → (∃ form ops, i = .setAttr form ops ∨ i = .clearAttr form ops) →
      Effect i s (((s.withStack k).withObjs (modifyObject s.objs n (·.withAttr a x))).withPc (endOf i s))
  /-- An object is inserted. -/
  | inserts (k : List Word) (o d : Word) : k <:+ s.cur.stack → o.toNat ≤ s.objs.length →
      d.toNat ≤ s.objs.length → (∃ form ops, i = .insertObj form ops) →
      Effect i s (((s.withStack k).withObjs (insertRecord s.objs o d)).withPc (endOf i s))
  /-- The normal halt. -/
  | quits : i = .quit → Effect i s (s.haltNormally s.cur.pc)

theorem effect_of_storesAt {i : Instr} {s u : State} {k : List Word} {x : Word}
    (hk : k <:+ s.cur.stack)
    (hi : ∃ form ops o, i ∈ [Instr.add form ops, .sub form ops, .div form ops, .mod form ops,
      .getParent o, .call ops])
    (hs : StoresAt (s.withStack k) (endOf i s) x u) : Effect i s (u.withPc (endOf i s + 1)) := by
  obtain ⟨b, hb, hw⟩ := hs
  exact .writes k _ x u _ hk hw (.inl ⟨hi, ⟨b, hb, rfl⟩, rfl⟩)

theorem effect_of_branches {i : Instr} {s t : State} {k : List Word} {cond : Bool} {q : Int}
    (hk : k <:+ s.cur.stack) (hi : ∃ form ops, i = .jin form ops ∨ i = .testAttr form ops)
    (hb : Branches (s.withStack k) cond q t) : Effect i s t := by
  rcases hb.pc_or_returns with ⟨a, rfl⟩ | ⟨x, hr⟩
  · exact .moves k a hk hi
  · exact .returns k x t hk hr (.inr (.inr (.inr hi)))

theorem effect_of_link {i : Instr} {s u t : State} {k : List Word} {x : Word} {cond : Bool} {q : Int}
    (hk : k <:+ s.cur.stack) (hi : ∃ o, i = .getSibling o ∨ i = .getChild o)
    (hs : StoresAt (s.withStack k) (endOf i s) x u) (hb : Branches u cond q t) : Effect i s t := by
  obtain ⟨b, hb', hw⟩ := hs
  rcases hb.pc_or_returns with ⟨a, rfl⟩ | ⟨y, hr⟩
  · exact .writes k _ x u a hk hw (.inr (.inl ⟨hi, b, hb', rfl⟩))
  · exact .writesReturns k _ x y u t hk ⟨b, hb', rfl⟩ hw hr hi

theorem effect_of_reference {i : Instr} {s s1 u : State} {k : List Word} {v x : Word} {form : Form2OP}
    {o o2 : Operand} (hk : k <:+ s.cur.stack) (hi : i ∈ [Instr.store form [o, o2], .inc o, .dec o])
    (hr : Resolves s o v s1) (hw : WritesVar (s.withStack k) v x u) :
    Effect i s (u.withPc (endOf i s)) :=
  .writes k v x u _ hk hw (.inr (.inr ⟨⟨form, o, o2, s1, hi, hr⟩, rfl⟩))

/-- A next state that is no fault of the instruction is an effect of it. -/
theorem exec_effect {i : Instr} {s t : State} (h : exec i s = .next t) (hf : ¬ FaultOf i s t) :
    Effect i s t := by
  cases i with
  | add form ops =>
    obtain ⟨_, _, _, _, _, _, _, _, h1, h2, hs, rfl⟩ := (execBinary_ok_iff rfl rfl hf).1 h
    obtain ⟨k, hk, rfl⟩ := h1.pops2 h2
    exact effect_of_storesAt hk ⟨form, ops, .omitted, by simp⟩ hs
  | sub form ops =>
    obtain ⟨_, _, _, _, _, _, _, _, h1, h2, hs, rfl⟩ := (execBinary_ok_iff rfl rfl hf).1 h
    obtain ⟨k, hk, rfl⟩ := h1.pops2 h2
    exact effect_of_storesAt hk ⟨form, ops, .omitted, by simp⟩ hs
  | div form ops =>
    obtain ⟨_, _, _, _, _, _, _, _, h1, h2, _, hs, rfl⟩ := (execQuotient_ok_iff rfl rfl hf).1 h
    obtain ⟨k, hk, rfl⟩ := h1.pops2 h2
    exact effect_of_storesAt hk ⟨form, ops, .omitted, by simp⟩ hs
  | mod form ops =>
    obtain ⟨_, _, _, _, _, _, _, _, h1, h2, _, hs, rfl⟩ := (execQuotient_ok_iff rfl rfl hf).1 h
    obtain ⟨k, hk, rfl⟩ := h1.pops2 h2
    exact effect_of_storesAt hk ⟨form, ops, .omitted, by simp⟩ hs
  | store form ops =>
    obtain ⟨_, o2, _, _, _, _, _, rfl, h1, h2, hw, rfl⟩ := (execStore_ok_iff hf).1 h
    obtain ⟨k, hk, rfl⟩ := h1.pops2 h2
    exact effect_of_reference (form := form) (o2 := o2) hk (by simp) h1 hw
  | inc o =>
    obtain ⟨_, _, _, _, _, h1, h2, hw, rfl⟩ := (execInc_ok_iff hf).1 h
    have h1' := h1
    obtain ⟨k, hk, rfl⟩ := h1.pops
    obtain ⟨l, hl, rfl⟩ := h2.pops
    exact effect_of_reference (k := l) (form := .long) (o2 := .omitted) (hl.trans hk) (by simp) h1' hw
  | dec o =>
    obtain ⟨_, _, _, _, _, h1, h2, hw, rfl⟩ := (execDec_ok_iff hf).1 h
    have h1' := h1
    obtain ⟨k, hk, rfl⟩ := h1.pops
    obtain ⟨l, hl, rfl⟩ := h2.pops
    exact effect_of_reference (k := l) (form := .long) (o2 := .omitted) (hl.trans hk) (by simp) h1' hw
  | getSibling o =>
    obtain ⟨_, _, _, _, h1, _, hs, hb⟩ := (execLink_ok_iff rfl rfl hf).1 h
    obtain ⟨k, hk, rfl⟩ := h1.pops
    exact effect_of_link hk ⟨o, .inl rfl⟩ hs hb
  | getChild o =>
    obtain ⟨_, _, _, _, h1, _, hs, hb⟩ := (execLink_ok_iff rfl rfl hf).1 h
    obtain ⟨k, hk, rfl⟩ := h1.pops
    exact effect_of_link hk ⟨o, .inr rfl⟩ hs hb
  | getParent o =>
    obtain ⟨_, _, _, _, h1, _, hs, rfl⟩ := (execGetParent_ok_iff hf).1 h
    obtain ⟨k, hk, rfl⟩ := h1.pops
    exact effect_of_storesAt hk ⟨.long, [], o, by simp⟩ hs
  | jin form ops =>
    obtain ⟨_, _, _, _, _, _, _, _, h1, h2, _, hb⟩ := (execJin_ok_iff hf).1 h
    obtain ⟨k, hk, rfl⟩ := h1.pops2 h2
    exact effect_of_branches hk ⟨form, ops, .inl rfl⟩ hb
  | testAttr form ops =>
    obtain ⟨_, _, _, _, _, _, _, _, h1, h2, _, _, hb⟩ := (execTestAttr_ok_iff hf).1 h
    obtain ⟨k, hk, rfl⟩ := h1.pops2 h2
    exact effect_of_branches hk ⟨form, ops, .inr rfl⟩ hb
  | setAttr form ops =>
    obtain ⟨_, _, _, _, _, _, _, h1, h2, hn, hN, _, rfl⟩ := (execWriteAttr_ok_iff rfl rfl hf).1 h
    obtain ⟨k, hk, rfl⟩ := h1.pops2 h2
    exact .flags k _ _ _ hk hn hN ⟨form, ops, .inl rfl⟩
  | clearAttr form ops =>
    obtain ⟨_, _, _, _, _, _, _, h1, h2, hn, hN, _, rfl⟩ := (execWriteAttr_ok_iff rfl rfl hf).1 h
    obtain ⟨k, hk, rfl⟩ := h1.pops2 h2
    exact .flags k _ _ _ hk hn hN ⟨form, ops, .inr rfl⟩
  | insertObj form ops =>
    obtain ⟨_, _, _, _, _, _, _, h1, h2, _, hO, _, hD, rfl⟩ := (execInsertObj_ok_iff hf).1 h
    obtain ⟨k, hk, rfl⟩ := h1.pops2 h2
    exact .inserts k _ _ hk hO hD ⟨form, ops, rfl⟩
  | call ops =>
    obtain ⟨_, _, _, _, _, _, _, h1, hc⟩ := (execCall_ok_iff hf).1 h
    obtain ⟨k, hk, rfl⟩ := h1.pops
    rcases hc with ⟨_, u, hs, rfl⟩ | ⟨_, _, _, _, _, hm, _, rfl⟩
    · exact effect_of_storesAt hk ⟨.long, ops, .omitted, by simp⟩ hs
    · exact .enters k _ ops hk rfl rfl hm
  | ret o =>
    obtain ⟨_, _, h1, hr⟩ := (execRet_ok_iff hf).1 h
    obtain ⟨k, hk, rfl⟩ := h1.pops
    exact .returns k _ t hk hr (.inr (.inr (.inl ⟨o, rfl⟩)))
  | rtrue => exact .returns _ _ t (List.suffix_refl _) ((execRtrue_ok_iff hf).1 h) (.inl rfl)
  | rfalse => exact .returns _ _ t (List.suffix_refl _) ((execRfalse_ok_iff hf).1 h) (.inr (.inl rfl))
  | quit => rw [execQuit_eq] at h; cases h; exact .quits rfl
  | print =>
    obtain ⟨_, _, _, rfl⟩ := (execPrint_ok_iff hf).1 h
    exact .emits _ _ _ (List.suffix_refl _) (.inl rfl)
  | printObj o =>
    obtain ⟨_, _, _, h1, _, rfl⟩ := (execPrintObj_ok_iff hf).1 h
    obtain ⟨k, hk, rfl⟩ := h1.pops
    exact .emits k _ _ hk (.inr (.inr (.inl ⟨o, rfl⟩)))
  | printNum ops =>
    obtain ⟨_, _, _, _, h1, rfl⟩ := (execPrintNum_ok_iff hf).1 h
    obtain ⟨k, hk, rfl⟩ := h1.pops
    exact .emits k _ _ hk (.inr (.inr (.inr ⟨ops, .inl rfl⟩)))
  | printChar ops =>
    obtain ⟨_, _, _, _, h1, rfl⟩ := (execPrintChar_ok_iff hf).1 h
    obtain ⟨k, hk, rfl⟩ := h1.pops
    exact .emits k _ _ hk (.inr (.inr (.inr ⟨ops, .inr rfl⟩)))
  | newLine =>
    rw [execNewLine_eq] at h
    cases h
    exact .emits _ _ _ (List.suffix_refl _) (.inr (.inl rfl))
  | _ => cases h; exact absurd ⟨_, _, rfl⟩ hf

/-- Every instruction gives a next state: an effect of it, or a fault of it. -/
theorem exec_cases (i : Instr) (s : State) :
    ∃ t, exec i s = .next t ∧ (Effect i s t ∨ FaultOf i s t) := by
  have h : ∃ t, exec i s = .next t := by cases i <;> exact ⟨_, rfl⟩
  obtain ⟨t, ht⟩ := h
  by_cases hf : FaultOf i s t
  · exact ⟨t, ht, .inr hf⟩
  · exact ⟨t, ht, .inl (exec_effect ht hf)⟩

end Sys2Proof.Machine
end

