-- ==== Sys2Proof/Laws/Faults.lean ====
section
/-! SUPPORT. When the shared operations raise: one lemma for each, from the fault relations of Safety.lean
to the fault the operation answers. Nothing is said of the state beside a fault, but that there is one
(spec/60_exceptions.md R262). -/

namespace Sys2Proof.Machine

/-! ## Suffixes and returns -/

/-- When StoreResult raises (R106). -/
theorem storeResult_error_of {x : Word} {q : Int} {s : State} {k : FaultKind} (h : StoreFails s q k) :
    ∃ u, storeResult x q s = .error k u := by
  cases h with
  | unreadable h => exact ⟨s, act_andThen_error (memByte_error h)⟩
  | unwritable v _ hv hw =>
    exact ⟨s, (act_andThen_ok (memByte_ok_iff.2 ⟨hv, rfl⟩)).trans
      (act_andThen_error (writeVar_error_of hw))⟩

/-- When Return raises (R204). -/
theorem returnWith_error_of {x : Word} {s : State} {k : FaultKind} (h : ReturnFails s k) :
    ∃ u, returnWith x s = .error k u := by
  cases h with
  | initial h => exact ⟨s, returnWith_initial h⟩
  | store f cs _ hc h =>
    refine ⟨s.withFrames f cs, ?_⟩
    refine (act_andThen_ok (a := ()) (popFrame_ok_iff.2 ⟨f, cs, hc, rfl⟩)).trans ?_
    refine (act_andThen_ok (look_ok_iff.2 ⟨rfl, rfl⟩)).trans ?_
    cases h with
    | unreadable h => exact act_andThen_error (memByte_error h)
    | unwritable v _ hv hw =>
      exact (act_andThen_ok (memByte_ok_iff.2 ⟨hv, rfl⟩)).trans
        (act_andThen_error (writeVar_error_of hw))

/-- When Branch raises (R107, R108). -/
theorem branch_error_of {cond : Bool} {q : Int} {s : State} {k : FaultKind}
    (h : BranchFails s cond q k) : ∃ u, branch cond q s = .error k u := by
  cases h with
  | first h => exact ⟨s, act_andThen_error (act_andThen_error (memByte_error h))⟩
  | second b hb h6 h =>
    refine ⟨s, act_andThen_error ((act_andThen_ok (memByte_ok_iff.2 ⟨hb, rfl⟩)).trans ?_)⟩
    rw [if_neg (by rw [h6]; decide)]
    exact act_andThen_error (memByte_error h)
  | returns off after _ hs ho hr =>
    rw [branch_of_suffix hs, beq_self_eq_true]
    rcases ho with rfl | rfl
    · exact returnWith_error_of hr
    · exact returnWith_error_of hr

/-! ## Words and text -/

/-- The words at an address fail at the first that cannot be read. -/
theorem Memory.readWords_error_of {m : Memory} {n j : Nat} {a : Int} (hj : j < n)
    (hr : ∀ i : Nat, i < j → (m.readWord (a + 2 * i)).isSome = true)
    (hn : m.readWord (a + 2 * j) = none) : m.readWords n a = .error (a + 2 * j) := by
  induction j generalizing n a with
  | zero =>
    obtain ⟨n, rfl⟩ := Nat.exists_eq_succ_of_ne_zero (Nat.ne_of_gt hj)
    have h0 : a + 2 * ((0 : Nat) : Int) = a := by simp
    rw [h0] at hn ⊢
    rw [Memory.readWords, hn]
  | succ j ih =>
    obtain ⟨n, rfl⟩ := Nat.exists_eq_succ_of_ne_zero (show n ≠ 0 by omega)
    obtain ⟨w, hw⟩ := Option.isSome_iff_exists.1 (hr 0 (by omega))
    have hs : ∀ i : Nat, a + 2 * ((i + 1 : Nat) : Int) = a + 2 + 2 * (i : Int) := fun i => by
      push_cast; ring
    rw [show a + 2 * ((0 : Nat) : Int) = a by simp] at hw
    rw [hs] at hn ⊢
    rw [Memory.readWords, hw]
    simp only
    rw [ih (by omega) (fun i hi => by rw [← hs]; exact hr (i + 1) (by omega)) hn]
    rfl

theorem Memory.readWord_bounds {m : Memory} {p : Int} {w : Word} (h : m.readWord p = some w) :
    0 ≤ p ∧ p + 1 < m.size := by
  obtain ⟨hi, lo, h1, h2, _⟩ := Memory.readWord_some_iff.1 h
  exact ⟨(Memory.readByte_some_iff.1 h1).1, (Memory.readByte_some_iff.1 h2).2.1⟩

theorem codesFuel_error_of {m : Memory} {p e : Int} (h : TextRunsOut m p e) (n : Nat)
    (hn : 0 ≤ p → (m.size : Int) < p + 2 * n) : codesFuel m n p = .error e := by
  induction h generalizing n with
  | here p h =>
    cases n with
    | zero => rfl
    | succ n => rw [codesFuel, h]
  | later p w e hw h15 _ ih =>
    have hb := Memory.readWord_bounds hw
    have := hn hb.1
    cases n with
    | zero => simp only [Nat.cast_zero] at this; omega
    | succ n =>
      rw [codesFuel, hw]
      simp only [h15]
      rw [if_neg (by decide), ih n (fun _ => by push_cast at this; omega)]
      rfl

/-- A string that runs out of the image fails at its first word that cannot be read (R130). -/
theorem decodeText_error_of {p e : Int} {s : State} (h : TextRunsOut s.mem p e) :
    decodeText p s = .error (.outOfBounds e) s := by
  have : s.mem.codes p = .error e := codesFuel_error_of h _ (fun _ => by push_cast; omega)
  simp [decodeText, this]

/-! ## Fetch -/

theorem Memory.window_of_some {m : Memory} {a : Int} {b : Byte} (h : m.readByte a = some b) (n : Nat) :
    m.window (n + 1) a = b :: m.window n (a + 1) := by
  rw [Memory.window, h]

theorem Memory.window_of_none {m : Memory} {a : Int} (h : m.readByte a = none) (n : Nat) :
    m.window n a = [] := by
  cases n with
  | zero => rfl
  | succ n => rw [Memory.window, h]

/-- An operand that cannot be read is not fetched. -/
theorem fetchOperand_none_of {m : Memory} {t : OpType} {q : Int} {n : Nat} (ht : t ≠ .omitted)
    (hr : ¬ OperandReadable m t q) : fetchOperand t (m.window n q) = none := by
  unfold OperandReadable at hr
  cases t with
  | omitted => exact absurd rfl ht
  | smallConst =>
    rw [if_neg (by decide), Option.not_isSome_iff_eq_none] at hr
    rw [Memory.window_of_none hr]; rfl
  | varRef =>
    rw [if_neg (by decide), Option.not_isSome_iff_eq_none] at hr
    rw [Memory.window_of_none hr]; rfl
  | largeConst =>
    rw [if_pos rfl, Option.not_isSome_iff_eq_none] at hr
    cases hb : m.readByte q with
    | none => rw [Memory.window_of_none hb]; rfl
    | some hi =>
      cases hl : m.readByte (q + 1) with
      | none =>
        cases n with
        | zero => rfl
        | succ n => rw [Memory.window_of_some hb, Memory.window_of_none hl]; rfl
      | some lo => rw [Memory.readWord, hb, hl] at hr; cases hr

/-- An operand that can be read is fetched, and the window goes on after it. -/
theorem fetchOperand_some_of {m : Memory} {t : OpType} {q : Int} {n : Nat} (ht : t ≠ .omitted)
    (hr : OperandReadable m t q) (hn : t.size ≤ n) :
    ∃ o, fetchOperand t (m.window n q) = some (o, m.window (n - t.size) (q + t.size)) := by
  unfold OperandReadable at hr
  cases t with
  | omitted => exact absurd rfl ht
  | smallConst =>
    obtain ⟨b, hb⟩ := Option.isSome_iff_exists.1 (by simpa using hr)
    obtain ⟨n, rfl⟩ := Nat.exists_eq_add_of_le' hn
    exact ⟨_, by rw [OpType.size, Memory.window_of_some hb]; rfl⟩
  | varRef =>
    obtain ⟨b, hb⟩ := Option.isSome_iff_exists.1 (by simpa using hr)
    obtain ⟨n, rfl⟩ := Nat.exists_eq_add_of_le' hn
    exact ⟨_, by rw [OpType.size, Memory.window_of_some hb]; rfl⟩
  | largeConst =>
    obtain ⟨w, hw⟩ := Option.isSome_iff_exists.1 (by simpa using hr)
    obtain ⟨hi, lo, hb, hl, _⟩ := Memory.readWord_some_iff.1 hw
    obtain ⟨n, rfl⟩ := Nat.exists_eq_add_of_le' hn
    refine ⟨.large (wordOfBytes hi lo), ?_⟩
    rw [OpType.size, Memory.window_of_some hb, Memory.window_of_some hl, add_assoc]
    rfl

/-- Operands that run out of the image stop the decoder at the first that cannot be read. -/
theorem fetchOperands_error_of {m : Memory} {ts : List OpType} {q e : Int}
    (h : OperandsRunOut m ts q e) (n p : Nat) (hn : (ts.map OpType.size).sum ≤ n) :
    ∃ j : Nat, e = q + j ∧ fetchOperands ts p (m.window n q) = .error (.truncated (p + j)) := by
  induction h generalizing n p with
  | here t ts q ht hr =>
    refine ⟨0, by simp, ?_⟩
    rw [fetchOperands, if_neg ht, fetchOperand_none_of ht hr]; rfl
  | later t ts q e ht hr _ ih =>
    simp only [List.map_cons, List.sum_cons] at hn
    obtain ⟨o, ho⟩ := fetchOperand_some_of ht hr (show t.size ≤ n by omega)
    obtain ⟨j, he, hj⟩ := ih (n - t.size) (p + t.size) (by omega)
    refine ⟨t.size + j, by rw [he]; push_cast; ring, ?_⟩
    rw [fetchOperands, if_neg ht, ho]
    simp only
    rw [hj, ← add_assoc]; rfl

theorem opType_size_le (t : OpType) : t.size ≤ 2 := by cases t <;> decide

theorem typeFields_size_le (tb : Byte) : ((typeFields tb).map OpType.size).sum ≤ 8 := by
  have h := opType_size_le
  simp only [typeFields, List.map_cons, List.map_nil, List.sum_cons, List.sum_nil]
  have h0 := h (opType (tb.extractLsb' 6 2))
  have h1 := h (opType (tb.extractLsb' 4 2))
  have h2 := h (opType (tb.extractLsb' 2 2))
  have h3 := h (opType (tb.extractLsb' 0 2))
  omega

theorem opcodeForm_variable {b : Byte} (h : 0xC0 ≤ b.toNat) :
    opcodeForm b = .variable2OP ∨ opcodeForm b = .variableVAR := by
  have hb : b ≠ 0xBE := by rintro rfl; exact absurd h (by decide)
  rw [opcodeForm, if_neg hb, if_pos h]
  cases b.getLsbD 5 <;> simp

/-- A decode that runs out of the image stops at the first read that does (R101). -/
theorem decode_error_of {m : Memory} {a e : Int} (h : DecodeRunsOut m a e) :
    ∃ j : Nat, e = a + j ∧ decode (m.window maxInstrBytes a) = .error (.truncated j) := by
  unfold maxInstrBytes
  cases h with
  | opcode h => exact ⟨0, by simp, by rw [Memory.window_of_none h]; rfl⟩
  | types b hb hc h =>
    refine ⟨1, rfl, ?_⟩
    rw [Memory.window_of_some hb, Memory.window_of_none h]
    rcases opcodeForm_variable hc with hf | hf <;> simp only [decode, hf]
  | variableForm b tb _ hb hc ht ho =>
    obtain ⟨j, he, hj⟩ := fetchOperands_error_of ho 8 2 (typeFields_size_le tb)
    refine ⟨2 + j, by rw [he]; push_cast; ring, ?_⟩
    rw [Memory.window_of_some hb, Memory.window_of_some ht, add_assoc]
    rcases opcodeForm_variable hc with hf | hf <;>
      simp only [decode, hf, Int.reduceAdd, hj] <;> rfl
  | shortForm b _ hb h1 h2 h3 ho =>
    have hf : opcodeForm b = .short (opType (b.extractLsb' 4 2)) := by
      rw [opcodeForm, if_neg h3, if_neg (by omega), if_pos h1]
    cases ho with
    | later _ _ _ _ _ _ h => cases h
    | here _ _ _ ht hr =>
      refine ⟨1, rfl, ?_⟩
      rw [Memory.window_of_some hb]
      have hn := fetchOperand_none_of (n := 9) ht hr
      revert hn ht hf
      generalize opType (b.extractLsb' 4 2) = t
      intro hf ht hn
      cases t with
      | omitted => exact absurd rfl ht
      | largeConst => simp only [decode, hf, hn]
      | smallConst => simp only [decode, hf, hn]
      | varRef => simp only [decode, hf, hn]
  | longForm b _ hb h1 ho =>
    have hf : opcodeForm b = .long := by
      rw [opcodeForm, if_neg (by rintro rfl; exact absurd h1 (by decide)), if_neg (by omega),
        if_neg (by omega)]
    have hs : ∀ x y, ([longType x, longType y].map OpType.size).sum ≤ 9 := by decide
    obtain ⟨j, he, hj⟩ := fetchOperands_error_of ho 9 1 (hs _ _)
    refine ⟨1 + j, by rw [he]; push_cast; ring, ?_⟩
    rw [Memory.window_of_some hb]
    simp only [decode, hf, hj]
    rfl

end Sys2Proof.Machine
end

