-- ==== Sys2Proof/Tests/Slice0.lean ====
section
/-! SUPPORT. Tests: well-formedness, decoding, one step of each instruction, reset, and a witness for the
hypotheses of every obligation. Expected results are the vectors of spec/95_test_vectors.md (named by
their ids) or read off the rule named; the start state is that file's section 2. -/

namespace Sys2Proof.Tests

open Sys2Proof.Machine

set_option Elab.async false

/-! ## The start state (section 2) -/

/-- An object of the fixture, all attributes clear. -/
def object (parent sibling child : Word) (name : Text) : GameObject :=
  ⟨parent, sibling, child, Vector.replicate 32 false, name⟩

/-- The OBJTAB fixture, N = 4. -/
def fixture : List GameObject :=
  [object 0 0 2 ['r', 'o', 'o', 'm'], object 1 3 0 ['b', 'o', 'x'],
   object 1 4 0 ['l', 'a', 'm', 'p'], object 1 0 0 ['k', 'e', 'y']]

/-- The start state with bytes at 0x0100 and a stack (top first). -/
def start (bs : List Byte) (stack : List Word) : State :=
  { State.reset with
    mem := Memory.place ⟨0x800, []⟩ 0x100 bs
    globals := Vector.replicate 240 0
    abbrevs := Vector.replicate 96 []
    cur := { initialFrame 0x100 with stack := stack }
    objs := fixture }

/-- The "nested" start state: a caller waits on the store byte 0x10 at 0x0300. -/
def nested (bs : List Byte) (stack : List Word) : State :=
  { start bs stack with
    mem := Memory.place (Memory.place ⟨0x800, []⟩ 0x100 bs) 0x300 [0x10]
    callers := [initialFrame 0x300] }

/-- The start state with the routine fixture of section 3.4 at 0x0200. -/
def withRoutine (bs : List Byte) : State :=
  { start bs [] with
    mem := Memory.place (Memory.place ⟨0x800, []⟩ 0x100 bs) 0x200
      [0x03, 0x00, 0x0A, 0x00, 0x0B, 0x00, 0x0C, 0xBA] }

/-- The start state with an image that ends right after the bytes at 0x0100. -/
def cut (bs : List Byte) : State := { start [] [] with mem := Memory.place ⟨0x100, []⟩ 0x100 bs }

/-- The "nested" start state with another store byte, and a bound on the stacks that the caller's, of one
word, is at. -/
def nestedFull (v : Byte) : State :=
  { start [] [] with
    mem := Memory.place ⟨0x800, []⟩ 0x300 [v]
    callers := [{ initialFrame 0x300 with stack := [1] }]
    params := ⟨some 1, none⟩ }

/-- The next state of a step, or the state itself where there is none. -/
def stepped (s : State) : State :=
  match step s with
  | .next t => t
  | .fault _ | .refused _ => s

/-! ## Well-formedness: a term each check refuses -/

theorem test_wf_long_takes_no_large : ¬ WellFormed (.add .long [.large 1, .small 2]) := by decide
theorem test_wf_long_takes_two : ¬ WellFormed (.add .long [.small 1]) := by decide
theorem test_wf_variable_takes_four :
    ¬ WellFormed (.call [.small 1, .small 2, .small 3, .small 4, .small 5]) := by decide
theorem test_wf_variable_takes_no_omitted : ¬ WellFormed (.add .vari [.small 1, .omitted]) := by decide
theorem test_wf_short_takes_no_omitted : ¬ WellFormed (.inc .omitted) := by decide
theorem test_wf_accepts : WellFormed (.add .vari [.large 1, .var 2, .small 3]) ∧ WellFormed (.call []) := by
  decide

/-! ## Decoding: words written out from the encodings of spec/30_encoding.md, one for each constructor -/

/-- Long form, R73: opcode byte 0, the two type bits (1 = Variable), then the number. -/
theorem test_decode_long_low :
    ∀ p ∈ ([
      ([0x00, 0x01, 0x65], .unimpl2OP_0 .long [.small 1, .small 0x65]),
      ([0x21, 0x01, 0x65], .unimpl2OP_1 .long [.small 1, .var 0x65]),
      ([0x42, 0x01, 0x65], .unimpl2OP_2 .long [.var 1, .small 0x65]),
      ([0x63, 0x01, 0x65], .unimpl2OP_3 .long [.var 1, .var 0x65]),
      ([0x04, 0x01, 0x65], .unimpl2OP_4 .long [.small 1, .small 0x65]),
      ([0x25, 0x01, 0x65], .unimpl2OP_5 .long [.small 1, .var 0x65]),
      ([0x46, 0x01, 0x65], .jin .long [.var 1, .small 0x65]),
      ([0x67, 0x01, 0x65], .unimpl2OP_7 .long [.var 1, .var 0x65]),
      ([0x08, 0x01, 0x65], .unimpl2OP_8 .long [.small 1, .small 0x65]),
      ([0x29, 0x01, 0x65], .unimpl2OP_9 .long [.small 1, .var 0x65]),
      ([0x4A, 0x01, 0x65], .testAttr .long [.var 1, .small 0x65]),
      ([0x6B, 0x01, 0x65], .setAttr .long [.var 1, .var 0x65]),
      ([0x0C, 0x01, 0x65], .clearAttr .long [.small 1, .small 0x65]),
      ([0x2D, 0x01, 0x65], .store .long [.small 1, .var 0x65]),
      ([0x4E, 0x01, 0x65], .insertObj .long [.var 1, .small 0x65]),
      ([0x6F, 0x01, 0x65], .unimpl2OP_15 .long [.var 1, .var 0x65])] : List (List Byte × Instr)), decode p.1 = .ok p.2 := by
  decide +kernel

/-- Long form, R73: opcode byte 0, the two type bits (1 = Variable), then the number. -/
theorem test_decode_long_high :
    ∀ p ∈ ([
      ([0x10, 0x01, 0x65], .unimpl2OP_16 .long [.small 1, .small 0x65]),
      ([0x31, 0x01, 0x65], .unimpl2OP_17 .long [.small 1, .var 0x65]),
      ([0x52, 0x01, 0x65], .unimpl2OP_18 .long [.var 1, .small 0x65]),
      ([0x73, 0x01, 0x65], .unimpl2OP_19 .long [.var 1, .var 0x65]),
      ([0x14, 0x01, 0x65], .add .long [.small 1, .small 0x65]),
      ([0x35, 0x01, 0x65], .sub .long [.small 1, .var 0x65]),
      ([0x56, 0x01, 0x65], .unimpl2OP_22 .long [.var 1, .small 0x65]),
      ([0x77, 0x01, 0x65], .div .long [.var 1, .var 0x65]),
      ([0x18, 0x01, 0x65], .mod .long [.small 1, .small 0x65]),
      ([0x39, 0x01, 0x65], .unimpl2OP_25 .long [.small 1, .var 0x65]),
      ([0x5A, 0x01, 0x65], .unimpl2OP_26 .long [.var 1, .small 0x65]),
      ([0x7B, 0x01, 0x65], .unimpl2OP_27 .long [.var 1, .var 0x65]),
      ([0x1C, 0x01, 0x65], .unimpl2OP_28 .long [.small 1, .small 0x65]),
      ([0x3D, 0x01, 0x65], .unimpl2OP_29 .long [.small 1, .var 0x65]),
      ([0x5E, 0x01, 0x65], .unimpl2OP_30 .long [.var 1, .small 0x65]),
      ([0x7F, 0x01, 0x65], .unimpl2OP_31 .long [.var 1, .var 0x65])] : List (List Byte × Instr)), decode p.1 = .ok p.2 := by
  decide +kernel

/-- Variable form with bit 5 clear, R75, R78: 110 and the number, types byte 0x1F (LargeConst, SmallConst). -/
theorem test_decode_variable_2OP :
    ∀ p ∈ ([
      ([0xC1, 0x1F, 0x12, 0x34, 0x56], .unimpl2OP_1 .vari [.large 0x1234, .small 0x56]),
      ([0xC6, 0x1F, 0x12, 0x34, 0x56], .jin .vari [.large 0x1234, .small 0x56]),
      ([0xCA, 0x1F, 0x12, 0x34, 0x56], .testAttr .vari [.large 0x1234, .small 0x56]),
      ([0xCB, 0x1F, 0x12, 0x34, 0x56], .setAttr .vari [.large 0x1234, .small 0x56]),
      ([0xCC, 0x1F, 0x12, 0x34, 0x56], .clearAttr .vari [.large 0x1234, .small 0x56]),
      ([0xCD, 0x1F, 0x12, 0x34, 0x56], .store .vari [.large 0x1234, .small 0x56]),
      ([0xCE, 0x1F, 0x12, 0x34, 0x56], .insertObj .vari [.large 0x1234, .small 0x56]),
      ([0xD4, 0x1F, 0x12, 0x34, 0x56], .add .vari [.large 0x1234, .small 0x56]),
      ([0xD5, 0x1F, 0x12, 0x34, 0x56], .sub .vari [.large 0x1234, .small 0x56]),
      ([0xD7, 0x1F, 0x12, 0x34, 0x56], .div .vari [.large 0x1234, .small 0x56]),
      ([0xD8, 0x1F, 0x12, 0x34, 0x56], .mod .vari [.large 0x1234, .small 0x56]),
      ([0xDF, 0x1F, 0x12, 0x34, 0x56], .unimpl2OP_31 .vari [.large 0x1234, .small 0x56])] : List (List Byte × Instr)), decode p.1 = .ok p.2 := by
  decide +kernel

/-- Short form, R74: 10, the type code (0 LargeConst, 1 SmallConst, 2 Variable), then the number. -/
theorem test_decode_short_1OP :
    ∀ p ∈ ([
      ([0x80, 0x12, 0x34], .unimpl1OP_0 (.large 0x1234)),
      ([0x91, 0x12], .getSibling (.small 0x12)),
      ([0xA2, 0x12], .getChild (.var 0x12)),
      ([0x83, 0x12, 0x34], .getParent (.large 0x1234)),
      ([0x94, 0x12], .unimpl1OP_4 (.small 0x12)),
      ([0xA5, 0x12], .inc (.var 0x12)),
      ([0x86, 0x12, 0x34], .dec (.large 0x1234)),
      ([0x97, 0x12], .unimpl1OP_7 (.small 0x12)),
      ([0xA8, 0x12], .unimpl1OP_8 (.var 0x12)),
      ([0x89, 0x12, 0x34], .unimpl1OP_9 (.large 0x1234)),
      ([0x9A, 0x12], .printObj (.small 0x12)),
      ([0xAB, 0x12], .ret (.var 0x12)),
      ([0x8C, 0x12, 0x34], .unimpl1OP_12 (.large 0x1234)),
      ([0x9D, 0x12], .unimpl1OP_13 (.small 0x12)),
      ([0xAE, 0x12], .unimpl1OP_14 (.var 0x12)),
      ([0x8F, 0x12, 0x34], .unimpl1OP_15 (.large 0x1234))] : List (List Byte × Instr)), decode p.1 = .ok p.2 := by
  decide +kernel

/-- Short form with type code 3, R74; 0xBE is the extended form, R71. -/
theorem test_decode_short_0OP :
    ∀ p ∈ ([
      ([0xB0], .rtrue),
      ([0xB1], .rfalse),
      ([0xB2], .print),
      ([0xB3], .unimpl0OP_3),
      ([0xB4], .unimpl0OP_4),
      ([0xB5], .unimpl0OP_5),
      ([0xB6], .unimpl0OP_6),
      ([0xB7], .unimpl0OP_7),
      ([0xB8], .unimpl0OP_8),
      ([0xB9], .unimpl0OP_9),
      ([0xBA], .quit),
      ([0xBB], .newLine),
      ([0xBC], .unimpl0OP_12),
      ([0xBD], .unimpl0OP_13),
      ([0xBE], .extendedForm),
      ([0xBF], .unimpl0OP_15)] : List (List Byte × Instr)), decode p.1 = .ok p.2 := by
  decide +kernel

/-- Variable form with bit 5 set, R75: 111 and the number, then the types byte. -/
theorem test_decode_variable_VAR_low :
    ∀ p ∈ ([
      ([0xE0, 0x3F, 0x12, 0x34], .call [.large 0x1234]),
      ([0xE1, 0x7F, 0x12], .unimplVAR_1 [.small 0x12]),
      ([0xE2, 0xBF, 0x12], .unimplVAR_2 [.var 0x12]),
      ([0xE3, 0xFF], .unimplVAR_3 []),
      ([0xE4, 0x3F, 0x12, 0x34], .unimplVAR_4 [.large 0x1234]),
      ([0xE5, 0x7F, 0x12], .printChar [.small 0x12]),
      ([0xE6, 0xBF, 0x12], .printNum [.var 0x12]),
      ([0xE7, 0xFF], .unimplVAR_7 []),
      ([0xE8, 0x3F, 0x12, 0x34], .unimplVAR_8 [.large 0x1234]),
      ([0xE9, 0x7F, 0x12], .unimplVAR_9 [.small 0x12]),
      ([0xEA, 0xBF, 0x12], .unimplVAR_10 [.var 0x12]),
      ([0xEB, 0xFF], .unimplVAR_11 []),
      ([0xEC, 0x3F, 0x12, 0x34], .unimplVAR_12 [.large 0x1234]),
      ([0xED, 0x7F, 0x12], .unimplVAR_13 [.small 0x12]),
      ([0xEE, 0xBF, 0x12], .unimplVAR_14 [.var 0x12]),
      ([0xEF, 0xFF], .unimplVAR_15 [])] : List (List Byte × Instr)), decode p.1 = .ok p.2 := by
  decide +kernel

/-- Variable form with bit 5 set, R75: 111 and the number, then the types byte. -/
theorem test_decode_variable_VAR_high :
    ∀ p ∈ ([
      ([0xF0, 0x3F, 0x12, 0x34], .unimplVAR_16 [.large 0x1234]),
      ([0xF1, 0x7F, 0x12], .unimplVAR_17 [.small 0x12]),
      ([0xF2, 0xBF, 0x12], .unimplVAR_18 [.var 0x12]),
      ([0xF3, 0xFF], .unimplVAR_19 []),
      ([0xF4, 0x3F, 0x12, 0x34], .unimplVAR_20 [.large 0x1234]),
      ([0xF5, 0x7F, 0x12], .unimplVAR_21 [.small 0x12]),
      ([0xF6, 0xBF, 0x12], .unimplVAR_22 [.var 0x12]),
      ([0xF7, 0xFF], .unimplVAR_23 []),
      ([0xF8, 0x3F, 0x12, 0x34], .unimplVAR_24 [.large 0x1234]),
      ([0xF9, 0x7F, 0x12], .unimplVAR_25 [.small 0x12]),
      ([0xFA, 0xBF, 0x12], .unimplVAR_26 [.var 0x12]),
      ([0xFB, 0xFF], .unimplVAR_27 []),
      ([0xFC, 0x3F, 0x12, 0x34], .unimplVAR_28 [.large 0x1234]),
      ([0xFD, 0x7F, 0x12], .unimplVAR_29 [.small 0x12]),
      ([0xFE, 0xBF, 0x12], .unimplVAR_30 [.var 0x12]),
      ([0xFF, 0xFF], .unimplVAR_31 [])] : List (List Byte × Instr)), decode p.1 = .ok p.2 := by
  decide +kernel

/-- DEC-16 and DEC-17: a byte past the image is where the fetch is out of bounds. -/
theorem test_fetch_past_the_image :
    (stepped { start [] [] with mem := Memory.place ⟨0x800, []⟩ 0x7FF [0x8B], cur := initialFrame 0x7FF
      }).haltReason = .fault (.outOfBounds 0x800) ∧
    (stepped { start [] [] with mem := Memory.place ⟨0x800, []⟩ 0x7FF [0xE0], cur := initialFrame 0x7FF
      }).haltReason = .fault (.outOfBounds 0x800) := by decide +kernel

/-- ERR-11: a word operand is out of bounds at its first byte. -/
theorem test_fetch_word_past_the_image :
    (stepped { start [] [] with mem := Memory.place ⟨0x800, []⟩ 0x7FE [0x8B, 0x12], cur := initialFrame 0x7FE
      }).haltReason = .fault (.outOfBounds 0x7FF) := by decide +kernel

/-- Table words: byte k of the word is bits 8k+7..8k. -/
theorem test_table_words :
    decodeTableWord 8 0xB0 = some .rtrue ∧
    decodeTableWord 24 0x65010D = some (.store .long [.small 1, .small 0x65]) ∧
    decodeTableWord 16 0x3FE0 = some (.call [.large 0]) := by decide +kernel

/-- A word placed where the next fetch reads is what the next step runs, from the reset state. -/
theorem test_withFetchWord :
    (stepped (State.reset.withFetchWord 8 0xBB)).sink = [.newLine] ∧
    (stepped (State.reset.withFetchWord 8 0xBA)).haltReason = .normal := by decide +kernel

/-! ## One step of each instruction -/

/-- BR-1 (V12). -/
theorem test_jin_jumps : (stepped (start [0x06, 0x02, 0x01, 0xC5] [])).cur.pc = 0x107 := by decide +kernel

/-- BR-8: the pc is an unbounded integer. -/
theorem test_jin_jumps_below_zero :
    (stepped (start [0x06, 0x02, 0x01, 0xA0, 0x00] [])).cur.pc = -7933 := by decide +kernel

/-- OBJ-15. -/
theorem test_test_attr_range : (stepped (start [0x0A, 0x01, 0x20, 0xC5] [])).haltReason =
    .fault (.invalidAttribute 32) := by decide +kernel

/-- P4 step 3: attribute 3 of object 1 is set, P = 1, offset 1: Return(1) into G00. -/
theorem test_test_attr_returns :
    let s := nested [0x0A, 0x01, 0x03, 0xC1] []
    let t := stepped { s with objs := modifyObject fixture 1 (·.withAttr 3 true) }
    t.globals[0]? = some 1 ∧ t.callers = [] ∧ t.cur.pc = 0x301 := by decide +kernel

/-- OBJ-17, first step. -/
theorem test_set_attr : (stepped (start [0x0B, 0x01, 0x05] [])).objs.map (fun g => g.attrs[5]?) =
    [some true, some false, some false, some false] := by decide +kernel

/-- OBJ-18. -/
theorem test_set_attr_sentinel : (stepped (start [0x0B, 0x00, 0x05] [])).haltReason =
    .fault (.invalidObject 0) := by decide +kernel

/-- OBJ-20, second step. -/
theorem test_clear_attr :
    let s := { start [0x0C, 0x01, 0x05] [] with objs := modifyObject fixture 1 (·.withAttr 5 true) }
    (stepped s).objs = fixture ∧ (stepped s).cur.pc = 0x103 := by decide +kernel

/-- VAR-3: store sp sp pops the variable number first. -/
theorem test_store_both_from_stack :
    let t := stepped (start [0x6D, 0x00, 0x00] [0x77, 0x10])
    t.globals[0x67]? = some 0x10 ∧ t.cur.stack = [] ∧ t.cur.pc = 0x103 := by decide +kernel

/-- VAR-20. -/
theorem test_store_overflow :
    (stepped { start [0x0D, 0x00, 0x01] [2, 1] with params := ⟨some 2, none⟩ }).haltReason =
      .fault .stackOverflow := by decide +kernel

/-- OBJ-21, first step. -/
theorem test_insert_obj : (stepped (start [0x0E, 0x04, 0x03] [])).objs.map (fun g => (g.parent, g.sibling, g.child)) =
    [(0, 0, 2), (1, 3, 0), (1, 4, 4), (3, 0, 0)] := by decide +kernel

/-- OBJ-23: the three assignments one after another, on one object. -/
theorem test_insert_obj_into_itself :
    (stepped (start [0x0E, 0x02, 0x02] [])).objs[1]?.map (fun g => (g.parent, g.sibling, g.child)) =
      some (2, 0, 2) := by decide +kernel

/-- ARI-1 (V13). -/
theorem test_add_wraps :
    let t := stepped (start [0xD4, 0x1F, 0xFF, 0xFF, 0x02, 0x10] [])
    t.globals[0]? = some 1 ∧ t.cur.pc = 0x106 := by decide +kernel

/-- ARI-18. -/
theorem test_add_three_operands : (stepped (start [0xD4, 0x57, 0x03, 0x04, 0x05, 0x00] [])).haltReason =
    .fault (.invalidOperandCount 3) := by decide +kernel

/-- ARI-14: the first operand pops first. -/
theorem test_sub_pops_in_order : (stepped (start [0x75, 0x00, 0x00, 0x10] [10, 3])).globals[0]? = some 7 := by
  decide +kernel

/-- ARI-4. -/
theorem test_sub_wraps : (stepped (start [0x15, 0x00, 0x01, 0x10] [])).globals[0]? = some 0xFFFF := by
  decide +kernel

/-- ARI-6: unsigned. -/
theorem test_div_is_unsigned :
    (stepped (start [0xD7, 0x1F, 0xFF, 0xF9, 0x02, 0x10] [])).globals[0]? = some 0x7FFC := by decide +kernel

/-- ARI-9. -/
theorem test_div_by_zero : (stepped (start [0x17, 0x07, 0x00, 0x10] [])).haltReason = .fault .divideByZero := by
  decide +kernel

/-- ARI-11. -/
theorem test_mod_is_unsigned :
    (stepped (start [0xD8, 0x1F, 0xFF, 0xF9, 0x02, 0x10] [])).globals[0]? = some 1 := by decide +kernel

/-- ARI-13. -/
theorem test_mod_by_zero : (stepped (start [0x18, 0x07, 0x00, 0x10] [])).haltReason = .fault .divideByZero := by
  decide +kernel

/-- OBJ-4. -/
theorem test_get_sibling :
    let t := stepped (start [0x91, 0x02, 0x10, 0xC5] [])
    t.globals[0]? = some 3 ∧ t.cur.pc = 0x107 := by decide +kernel

/-- OBJ-6: the store comes before the branch, and goes with the frame. -/
theorem test_get_sibling_then_returns :
    let t := stepped (nested [0x91, 0x02, 0x00, 0xC1] [])
    t.globals[0]? = some 1 ∧ t.cur.stack = [] ∧ t.cur.pc = 0x301 := by decide +kernel

/-- OBJ-1. -/
theorem test_get_child :
    let t := stepped (start [0x92, 0x01, 0x10, 0x49] [])
    t.globals[0]? = some 2 ∧ t.cur.pc = 0x104 := by decide +kernel

/-- OBJ-3. -/
theorem test_get_child_of_sentinel :
    let t := stepped (start [0x92, 0x00, 0x10, 0xC5] [])
    t.globals[0]? = some 0 ∧ t.cur.pc = 0x104 := by decide +kernel

/-- OBJ-7. -/
theorem test_get_parent : (stepped (start [0x93, 0x03, 0x00] [])).cur.stack = [1] := by decide +kernel

/-- OBJ-9. -/
theorem test_get_parent_range : (stepped (start [0x93, 0x05, 0x10] [])).haltReason =
    .fault (.invalidObject 5) := by decide +kernel

/-- VAR-11. -/
theorem test_inc_stack : (stepped (start [0x95, 0x00] [7, 4])).cur.stack = [8, 4] := by decide +kernel

/-- VAR-8. -/
theorem test_inc_unset : (stepped (start [0x95, 0x03] [])).haltReason = .fault (.unsetLocal 3) := by
  decide +kernel

/-- VAR-10. -/
theorem test_dec_wraps :
    let t := stepped (start [0x96, 0x10] [])
    t.globals[0]? = some 0xFFFF ∧ t.cur.pc = 0x102 := by decide +kernel

/-- VAR-15: the operand is a variable that holds the variable's number. -/
theorem test_dec_indirect :
    let s := ((start [0xA6, 0x01] []).withLocal 1 0x12).withGlobal 2 5
    (stepped s).globals[2]? = some 4 ∧ (stepped s).cur.locals[0]? = some (some 0x12) := by decide +kernel

/-- TXT-30. -/
theorem test_print_obj : (stepped (start [0x9A, 0x03] [])).sink = [.print ['l', 'a', 'm', 'p']] := by
  decide +kernel

/-- TXT-32. -/
theorem test_print_obj_range : (stepped (start [0x9A, 0x09] [])).haltReason = .fault (.invalidObject 9) := by
  decide +kernel

/-- FRM-11: the operand pops the callee's stack. -/
theorem test_ret_stack :
    let t := stepped (nested [0xAB, 0x00] [9, 7])
    t.globals[0]? = some 9 ∧ t.callers = [] ∧ t.cur.pc = 0x301 := by decide +kernel

/-- FRM-14. -/
theorem test_rtrue :
    let t := stepped (nested [0xB0] [])
    t.globals[0]? = some 1 ∧ t.cur.pc = 0x301 := by decide +kernel

/-- FRM-16. -/
theorem test_rtrue_from_main :
    let t := stepped (start [0xB0] [])
    t.haltReason = .fault .returnFromMain ∧ t.diagPc = 0x100 ∧ t.diagOpbyte = some 0xB0 := by decide +kernel

/-- FRM-15. -/
theorem test_rfalse :
    let s := (nested [0xB1] []).withGlobal 0 7
    (stepped s).globals[0]? = some 0 ∧ (stepped s).callers = [] := by decide +kernel

/-- TXT-1. -/
theorem test_print :
    let t := stepped (start [0xB2, 0x35, 0x51, 0xC6, 0x85] [])
    t.sink = [.print ['h', 'e', 'l', 'l', 'o']] ∧ t.cur.pc = 0x105 := by decide +kernel

/-- TXT-3: A2 by the shift 5, for one character. -/
theorem test_print_alphabet2 : (stepped (start [0xB2, 0x15, 0xE5, 0xC8, 0xA5] [])).sink = [.print ['7', '.']] := by
  decide +kernel

/-- FRM-17: the pc stays. -/
theorem test_quit :
    let t := stepped (start [0xBA] [])
    t.status = .halted ∧ t.haltReason = .normal ∧ t.cur.pc = 0x100 ∧ t.diagPc = 0x100 := by decide +kernel

/-- TXT-29. -/
theorem test_new_line :
    let t := stepped (start [0xBB] [])
    t.sink = [.newLine] ∧ t.cur.pc = 0x101 := by decide +kernel

/-- FRM-1: arguments before defaults, the caller on its store byte. -/
theorem test_call :
    let t := stepped (withRoutine [0xE0, 0x1F, 0x01, 0x00, 0x05, 0x10])
    t.cur.pc = 0x207 ∧ t.cur.locals.toList.take 4 = [some 5, some 11, some 12, none] ∧
      t.callers.map (·.pc) = [0x105] := by decide +kernel

/-- FRM-8: call to nothing still resolves its arguments. -/
theorem test_call_nothing :
    let t := stepped ((start [0xE0, 0x6F, 0x00, 0x00, 0x10] [5]).withGlobal 0 7)
    t.globals[0]? = some 0 ∧ t.cur.stack = [] ∧ t.cur.pc = 0x105 ∧ t.callers = [] := by decide +kernel

/-- TXT-28. -/
theorem test_print_char : (stepped (start [0xE5, 0x7F, 0x41] [])).sink = [.print ['A']] := by decide +kernel

/-- TXT-23. -/
theorem test_print_num_least : (stepped (start [0xE6, 0x3F, 0x80, 0x00] [])).sink =
    [.print ['-', '3', '2', '7', '6', '8']] := by decide +kernel

/-- TXT-26. -/
theorem test_print_num_zero :
    let t := stepped (start [0xE6, 0x7F, 0x00] [])
    t.sink = [.print ['0']] ∧ t.cur.pc = 0x103 := by decide +kernel

/-- ERR-1. -/
theorem test_extended_form :
    let t := stepped (start [0xBE] [])
    t.haltReason = .fault .decodeError ∧ t.diagOpbyte = some 0xBE ∧ t.diagClass = some .ext ∧
      t.diagOpcode = none := by decide +kernel

/-- ERR-7: dispatch comes before the operand count. -/
theorem test_unimplemented_before_arity :
    let t := stepped (start [0xC1, 0xFF] [])
    t.haltReason = .fault .unimplementedOpcode ∧ t.diagClass = some .op2 ∧ t.diagOpcode = some 1 := by
  decide +kernel

/-! ## Text and attribute bytes -/

/-- V10: the word 0x8443 holds codes 1, 2, 3. -/
theorem test_word_codes : wordCodes 0x8443 = [1, 2, 3] := by decide

/-- TXT-4: the stream-start escape. -/
theorem test_text_escape : decodeCodes [] [5, 6, 2, 0, 5, 5] = ['@'] := by decide +kernel

/-- TXT-8: A2 code 6 elsewhere is the control glyph, whatever that is. -/
theorem test_text_control_glyph :
    decodeCodes [] [13, 5, 6, 14, 5, 5] = 'h' :: (Config.ctrlGlyph ++ ['i']) := rfl

/-- TXT-21 and TXT-16: abbreviations, and a pending abbreviation before a new one. -/
theorem test_text_abbreviations :
    decodeCodes [['t', 'h', 'e']] [1, 0, 8] = ['t', 'h', 'e', 'c'] ∧
    decodeCodes [['t', 'h', 'e']] [2, 1, 5] = [] := by decide +kernel

/-- R172: attribute 0 is bit 7 of the first byte, attribute 31 bit 0 of the fourth. -/
theorem test_attribute_bytes :
    (expandAttrs 0x80 0 0 1)[0]? = some true ∧ (expandAttrs 0x80 0 0 1)[31]? = some true ∧
    (expandAttrs 0x80 0 0 1)[7]? = some false ∧ (expandAttrs 0x80 0 0 1)[24]? = some false := by
  decide +kernel

/-! ## Reset -/

/-- State.reset is Reset of the blank image with no objects (log entry 4). -/
theorem test_reset_is_boot : boot ⟨none, none⟩ blankImage (some []) true = State.reset := by
  decide +kernel

/-- ERR-13: the image is 0x19 bytes. -/
theorem test_reset_short_image : (boot ⟨none, none⟩ ⟨0x19, []⟩ (some []) true).haltReason =
    .fault (.initError .header) := by decide +kernel

/-- ERR-12: the globals' table runs past the image. -/
theorem test_reset_globals_past_the_image :
    (boot ⟨none, none⟩ (Memory.place ⟨0x800, []⟩ 0x0C [0x07, 0x00]) (some []) true).haltReason =
      .fault (.initError .globals) := by decide +kernel

theorem test_reset_memory_wf : State.reset.mem.wf = true := by decide

/-! ## Witnesses: for each obligation with hypotheses, a state and operands that meet them -/

theorem witness_DecodeOfEncodeIsIdentity :
    WellFormed (.call [.large 0x1234, .small 0xFF, .var 0, .large 0]) := by decide

theorem witness_OpcodeByteSelectsFormAndClass :
    ((0xFF : Byte) ≠ 0xBE ∧ 0xC0 ≤ (0xFF : Byte).toNat ∧ (0xFF : Byte).getLsbD 5 = true) ∧
    ((0xC0 : Byte) ≠ 0xBE ∧ 0xC0 ≤ (0xC0 : Byte).toNat ∧ (0xC0 : Byte).getLsbD 5 = false) ∧
    ((0xBF : Byte) ≠ 0xBE ∧ 0x80 ≤ (0xBF : Byte).toNat ∧ (0xBF : Byte).toNat < 0xC0 ∧
      (0xBF : Byte).toNat / 16 % 4 = 3) ∧
    ((0x80 : Byte) ≠ 0xBE ∧ 0x80 ≤ (0x80 : Byte).toNat ∧ (0x80 : Byte).toNat < 0xC0 ∧
      (0x80 : Byte).toNat / 16 % 4 ≠ 3) ∧ (0x7F : Byte).toNat < 0x80 := by decide

theorem witness_TenBytesDecodeWellFormed : 10 ≤ (List.replicate 10 (0 : Byte)).length := by decide

theorem witness_DecodeReadsOnlyItsOwnBytes :
    decode [0x0D, 0x01, 0x65, 0xFF] = .ok (.store .long [.small 1, .small 0x65]) := by decide +kernel

theorem witness_FieldsAfterOmittedAreIgnored : 0xC0 ≤ (0xE6 : Byte).toNat ∧
    (typeFields 0x3C).takeWhile (fun t => decide (t ≠ .omitted)) =
      (typeFields 0x3F).takeWhile (fun t => decide (t ≠ .omitted)) := by decide

/-- The last byte of the image holds an instruction of one byte. -/
def atEdge : State :=
  { start [] [] with mem := Memory.place ⟨0x800, []⟩ 0x7FF [0xB0], cur := initialFrame 0x7FF }

theorem witness_StepRunsDecodedInstruction :
    atEdge.status = .running ∧ decode (atEdge.mem.window 10 atEdge.cur.pc) = .ok .rtrue := by
  decide +kernel

theorem witness_StepRunsInstructionEncodedAtPc :
    atEdge.status = .running ∧ WellFormed .rtrue ∧
    ∀ (k : Nat) (b : Byte), (encode .rtrue)[k]? = some b →
      atEdge.mem.readByte (atEdge.cur.pc + k) = some b := by
  refine ⟨rfl, rfl, fun k b h => ?_⟩
  cases k with
  | zero => cases h; decide +kernel
  | succ k => cases h

theorem witness_HaltedBlockTakesNoStep : ((start [] []).haltNormally 0).status = .halted := rfl

/-- A pc on either side of the image, and each read that can run out of it: the types byte (DEC-17), the
second operand of a variable form and of a long form, and a word operand's second byte (ERR-11). -/
theorem witness_FetchOutsideImageIsOutOfBounds :
    (let s := (start [] []).withPc (-1)
     s.status = .running ∧ s.cur.pc < 0) ∧
    (let s := (start [] []).withPc 0x800
     s.status = .running ∧ (s.mem.size : Int) ≤ s.cur.pc ∧ DecodeRunsOut s.mem s.cur.pc 0x800) ∧
    DecodeRunsOut (cut [0xE0]).mem (cut [0xE0]).cur.pc 0x101 ∧
    DecodeRunsOut (cut [0xE0, 0x1F, 0x4A, 0x98]).mem (cut [0xE0, 0x1F, 0x4A, 0x98]).cur.pc 0x104 ∧
    DecodeRunsOut (cut [0x14, 0x05]).mem (cut [0x14, 0x05]).cur.pc 0x102 ∧
    DecodeRunsOut (cut [0x8B, 0x12]).mem (cut [0x8B, 0x12]).cur.pc 0x101 := by
  refine ⟨by decide +kernel, ⟨rfl, by decide +kernel, .opcode (by decide +kernel)⟩,
    .types 0xE0 (by decide +kernel) (by decide) (by decide +kernel),
    .variableForm 0xE0 0x1F _ (by decide +kernel) (by decide) (by decide +kernel)
      (.later .largeConst _ 0x102 _ (by decide) ?_ (.here .smallConst _ 0x104 (by decide) ?_)),
    .longForm 0x14 _ (by decide +kernel) (by decide)
      (.later .smallConst _ 0x101 _ (by decide) ?_ (.here .smallConst _ 0x102 (by decide) ?_)),
    .shortForm 0x8B _ (by decide +kernel) (by decide) (by decide) (by decide)
      (.here .largeConst _ 0x101 (by decide) ?_)⟩ <;>
    (unfold OperandReadable; decide +kernel)

/-- The first and the last address of the image, and the ones just outside. -/
theorem witness_MemoryReadsAreBoundedAndBigEndian :
    let s := atEdge
    ((-1 : Int) < 0 ∧ (s.mem.size : Int) ≤ 0x800) ∧
    ((0 : Int) ≤ 0 ∧ (0 : Int) < s.mem.size ∧ (0 : Int) ≤ 0x7FF ∧ (0x7FF : Int) < s.mem.size) ∧
    (s.mem.size : Int) ≤ 0x7FF + 1 ∧
    s.mem.readByte 0x7FE = some 0xFF ∧ s.mem.readByte (0x7FE + 1) = some 0xB0 := by decide +kernel

theorem witness_MemWriteWritesOnlyItsBytes :
    let m := blankImage
    ((-1 : Int) < 0 ∧ (m.size : Int) ≤ 0x20000) ∧
    ((0 : Int) ≤ 0x1FFFF ∧ (0x1FFFF : Int) < m.size) ∧ (m.size : Int) ≤ 0x1FFFF + 1 ∧
    (0 : Int) ≤ 0x1FFFE ∧ (0x1FFFE : Int) + 1 < m.size ∧ (0 : Int) ≠ 0x1FFFE ∧ (0 : Int) ≠ 0x1FFFE + 1 := by
  decide +kernel

/-- Variables 0, 1, 15, 16, 254 and 255. -/
theorem witness_ReadVarByNumber :
    let s := (start [] []).withLocal 15 9
    ((0 : Word).toNat = 0 ∧ s.cur.stack = []) ∧
    ((0 : Word).toNat = 0 ∧ (s.withStack [5]).cur.stack = 5 :: []) ∧
    (1 ≤ (1 : Word).toNat ∧ (1 : Word).toNat ≤ 15 ∧ s.cur.locals[(1 : Word).toNat - 1]? = some none) ∧
    (1 ≤ (15 : Word).toNat ∧ (15 : Word).toNat ≤ 15 ∧
      s.cur.locals[(15 : Word).toNat - 1]? = some (some 9)) ∧
    (16 ≤ (16 : Word).toNat ∧ (254 : Word).toNat ≤ 254) ∧ 255 ≤ (255 : Word).toNat := by
  decide +kernel

theorem witness_WriteVarByNumber :
    let s := start [] [5]
    ((0 : Word).toNat = 0 ∧ { s with params := ⟨some 1, none⟩ }.params.maxEvalStack =
      some { s with params := ⟨some 1, none⟩ }.cur.stack.length) ∧
    s.params.maxEvalStack ≠ some s.cur.stack.length ∧
    (1 ≤ (1 : Word).toNat ∧ (15 : Word).toNat ≤ 15) ∧
    (16 ≤ (16 : Word).toNat ∧ (254 : Word).toNat ≤ 254) ∧ 255 ≤ (0x100 : Word).toNat := by
  decide +kernel

theorem witness_OperandsResolveLeftToRight :
    let s := start [] [10, 3]
    resolve (.var 0) s = .ok 10 (s.withStack [3]) ∧
    resolve (.var 0) (s.withStack [3]) = .ok 3 ((s.withStack [3]).withStack []) :=
  ⟨resolve_ok_iff.2 (.var _ 0 _ _ (.stack _ 10 [3] rfl)),
    resolve_ok_iff.2 (.var _ 0 _ _ (.stack _ 3 [] rfl))⟩

theorem witness_StoreSuffixWritesNamedVariable :
    let s := start [0x10, 0xFF] []
    s.mem.readByte 0x800 = none ∧
    (s.mem.readByte 0x100 = some 0x10 ∧ WritesVar s 0x10 7 (s.withGlobal 0 7)) ∧
    (s.mem.readByte 0x101 = some 0xFF ∧ WriteFails s 0xFF (.invalidVariableIndex 0xFF)) :=
  ⟨by decide +kernel, ⟨by decide +kernel, .globalCell _ 0x10 7 (by decide) (by decide)⟩,
    by decide +kernel, .index _ 0xFF (by decide)⟩

/-- A long offset, by its two bytes at 0. -/
theorem long_suffix {m : Memory} {b c : Byte} {off : Int} (hb : m.readByte 0 = some b)
    (hc : m.readByte (0 + 1) = some c) (h6 : b.getLsbD 6 = false)
    (h : (if b.getLsbD 5 then ((b.toNat % 64 * 256 + c.toNat : Nat) : Int) - 0x4000
      else ((b.toNat % 64 * 256 + c.toNat : Nat) : Int)) = off) :
    BranchSuffix m 0 (b.getLsbD 7) off (0 + 2) := by
  subst h
  split
  · next h5 => exact .longBackward b c hb hc h6 h5
  · next h5 => exact .longForward b c hb hc h6 (by simpa using h5)

/-- The offsets 0, 1, 63, 8191, -8192 and -1, the polarities, and the two unreadable bytes. -/
theorem witness_BranchFiresOnEqualPolarity :
    (∃ m : Memory, BranchSuffix m 0 true 0 (0 + 1)) ∧ (∃ m : Memory, BranchSuffix m 0 false 1 (0 + 1)) ∧
    (∃ m : Memory, BranchSuffix m 0 true 63 (0 + 1)) ∧ (∃ m : Memory, BranchSuffix m 0 true 8191 (0 + 2)) ∧
    (∃ m : Memory, BranchSuffix m 0 false (-8192) (0 + 2)) ∧
    (∃ m : Memory, BranchSuffix m 0 true (-1) (0 + 2)) ∧
    (start [] []).mem.readByte 0x800 = none ∧
    let m := Memory.place ⟨0x800, []⟩ 0x7FF [0x80]
    m.readByte 0x7FF = some 0x80 ∧ (0x80 : Byte).getLsbD 6 = false ∧ m.readByte (0x7FF + 1) = none :=
  ⟨⟨Memory.place ⟨2, []⟩ 0 [0xC0], .short 0xC0 (by decide +kernel) (by decide)⟩,
    ⟨Memory.place ⟨2, []⟩ 0 [0x41], .short 0x41 (by decide +kernel) (by decide)⟩,
    ⟨⟨2, []⟩, .short 0xFF (by decide +kernel) (by decide)⟩,
    ⟨Memory.place ⟨2, []⟩ 0 [0x9F, 0xFF], long_suffix (b := 0x9F) (c := 0xFF) (by decide +kernel)
      (by decide +kernel) (by decide) (by decide +kernel)⟩,
    ⟨Memory.place ⟨2, []⟩ 0 [0x20, 0x00], long_suffix (b := 0x20) (c := 0x00) (by decide +kernel)
      (by decide +kernel) (by decide) (by decide +kernel)⟩,
    ⟨Memory.place ⟨2, []⟩ 0 [0xBF, 0xFF], long_suffix (b := 0xBF) (c := 0xFF) (by decide +kernel)
      (by decide +kernel) (by decide) (by decide +kernel)⟩,
    by decide +kernel, by decide +kernel, by decide, by decide +kernel⟩

/-- Return(x) from the nested start state into G00. -/
theorem returns_nested (bs : List Byte) (k : List Word) (x : Word)
    (hb : (nested bs k).mem.readByte 0x300 = some 0x10) :
    Returns (nested bs k) x
      ((((nested bs k).withFrames (initialFrame 0x300) []).withGlobal 0 x).withPc 0x301) :=
  ⟨initialFrame 0x300, [], _, rfl, ⟨0x10, hb, .globalCell _ 0x10 x (by decide) (by decide)⟩, rfl⟩

theorem witness_ReturnStoresIntoCaller :
    (start [] []).callers = [] ∧
    let s := nested [] []
    s.callers = initialFrame 0x300 :: [] ∧ s.mem.readByte (initialFrame 0x300).pc = some 0x10 ∧
    WritesVar { s with cur := initialFrame 0x300, callers := [] } 0x10 9
      ((s.withFrames (initialFrame 0x300) []).withGlobal 0 9) :=
  ⟨rfl, rfl, by decide +kernel, .globalCell _ 0x10 9 (by decide) (by decide)⟩

/-- The caller's store byte past the image, 255, and 0 with the caller's stack at its bound. -/
theorem witness_ReturnStoresIntoCaller_faults :
    (let s := { start [] [] with callers := [initialFrame 0x800] }
     s.callers = initialFrame 0x800 :: [] ∧ s.mem.readByte (initialFrame 0x800).pc = none) ∧
    (nestedFull 255).mem.readByte 0x300 = some 255 ∧
    (let s := nestedFull 0
     s.callers = { initialFrame 0x300 with stack := [1] } :: [] ∧ s.mem.readByte 0x300 = some 0 ∧
      s.params.maxEvalStack = some [(1 : Word)].length) := by decide +kernel

/-- The operands 5 and 7, then 5 and 0, with the store byte 0x10 after them. -/
theorem witness_ArithmeticStoresItsResult :
    let s := start [0x14, 0x05, 0x07, 0x10] []
    (Resolves s (.small 5) 5 s ∧ Resolves s (.small 7) 7 s ∧
      StoresAt s (endOf (.add .long [.small 5, .small 7]) s) (BitVec.ofNat 16 (5 + 7)) (s.withGlobal 0 12) ∧
      StoresAt s (endOf (.sub .long [.small 5, .small 7]) s) (BitVec.ofInt 16 (5 - 7))
        (s.withGlobal 0 0xFFFE) ∧
      (7 : Word) ≠ 0 ∧
      StoresAt s (endOf (.div .long [.small 5, .small 7]) s) (BitVec.ofNat 16 (5 / 7)) (s.withGlobal 0 0) ∧
      StoresAt s (endOf (.mod .long [.small 5, .small 7]) s) (BitVec.ofNat 16 (5 % 7))
        (s.withGlobal 0 5)) ∧
    Resolves s (.small 0) 0 s :=
  ⟨⟨.small _ 5, .small _ 7, ⟨0x10, by decide +kernel, .globalCell _ 0x10 _ (by decide) (by decide)⟩,
    ⟨0x10, by decide +kernel, .globalCell _ 0x10 _ (by decide) (by decide)⟩, by decide,
    ⟨0x10, by decide +kernel, .globalCell _ 0x10 _ (by decide) (by decide)⟩,
    ⟨0x10, by decide +kernel, .globalCell _ 0x10 _ (by decide) (by decide)⟩⟩, .small _ 0⟩

/-- A store byte past the image, and the store byte 255. -/
theorem witness_ArithmeticStoresItsResult_faults :
    let i := Instr.add .long [.small 5, .small 7]
    let j := Instr.div .long [.small 5, .small 7]
    StoreFails (cut [0x14, 0x05, 0x07]) (endOf i (cut [0x14, 0x05, 0x07])) (.outOfBounds 0x103) ∧
    (7 : Word) ≠ 0 ∧ StoreFails (start [0x17, 0x05, 0x07, 0xFF] [])
      (endOf j (start [0x17, 0x05, 0x07, 0xFF] [])) (.invalidVariableIndex 255) :=
  ⟨.unreadable (by decide +kernel), by decide,
    .unwritable 0xFF _ (by decide +kernel) (.index _ 255 (by decide))⟩

theorem witness_VariableInstructionsWriteByReference :
    let s := (start [] []).withLocal 3 9
    (Resolves s (.small 3) 3 s ∧ Resolves s (.small 42) 42 s ∧ WritesVar s 3 42 (s.withLocal 3 42)) ∧
    (ReadsVar s 3 9 s ∧ WritesVar s 3 (BitVec.ofNat 16 (9 + 1)) (s.withLocal 3 10) ∧
      WritesVar s 3 (BitVec.ofInt 16 (9 - 1)) (s.withLocal 3 8)) ∧
    (Resolves s (.small 255) 255 s ∧ WriteFails s 255 (.invalidVariableIndex 255)) ∧
    (Resolves s (.small 4) 4 s ∧ ReadFails s 4 (.unsetLocal 4)) :=
  ⟨⟨.small _ 3, .small _ 42, .slot _ 3 42 (by decide) (by decide)⟩,
    ⟨.slot _ 3 9 (by decide) (by decide) (by decide +kernel), .slot _ 3 _ (by decide) (by decide),
      .slot _ 3 _ (by decide) (by decide)⟩,
    ⟨.small _ 255, .index _ 255 (by decide)⟩,
    ⟨.small _ 4, .unset _ 4 (by decide) (by decide) (by decide +kernel)⟩⟩

/-- inc of the stack top where the stack is over its bound: the pop goes, the push does not. -/
theorem witness_VariableInstructionsWriteByReference_push :
    let s := { start [] [7] with params := ⟨some 0, none⟩ }
    Resolves s (.small 0) 0 s ∧ ReadsVar s 0 7 (s.withStack []) ∧
    WriteFails (s.withStack []) 0 .stackOverflow :=
  ⟨.small _ 0, .stack _ 7 [] rfl, .overflow _ rfl⟩

/-- A routine of three locals, called with one argument. -/
theorem witness_CallEntersRoutine :
    let s := withRoutine []
    [Operand.small 5].length ≤ 3 ∧ ResolvesAll s [.large 0x100, .small 5] [0x100, 5] s ∧
    (0x100 : Word) ≠ 0 ∧ s.mem.readByte (2 * ((0x100 : Word).toNat : Int)) = some 3 ∧
    (3 : Byte).toNat ≤ 15 ∧ s.params.maxFrames ≠ some (s.callers.length + 1) ∧
    ∀ j : Nat, j < (3 : Byte).toNat → s.mem.readWord (2 * ((0x100 : Word).toNat : Int) + 1 + 2 * j) =
      some (BitVec.ofNat 16 (10 + j)) :=
  ⟨by decide, .cons _ _ _ _ _ _ _ (.large _ 0x100) (.cons _ _ _ _ _ _ _ (.small _ 5) (.nil _)), by decide,
    by decide +kernel, by decide, by decide, by decide +kernel⟩

theorem witness_CallOfZeroStoresZero :
    let s := start [0xE0, 0x3F, 0x00, 0x00, 0x10] []
    ([] : List Operand).length ≤ 3 ∧ ResolvesAll s [.large 0] [0] s ∧
    StoresAt s (endOf (.call [.large 0]) s) 0 (s.withGlobal 0 0) :=
  ⟨by decide, .cons _ _ _ _ _ _ _ (.large _ 0) (.nil _),
    ⟨0x10, by decide +kernel, .globalCell _ 0x10 _ (by decide) (by decide)⟩⟩

/-- The header byte at 0x800 is past the image; a count of 16; a full call stack with a count of 3. -/
theorem witness_CallFaultsInOrder :
    let s := start [] []
    let s16 := { s with mem := Memory.place ⟨0x800, []⟩ 0x200 [16] }
    let full := { withRoutine [] with params := ⟨none, some 1⟩ }
    ([] : List Operand).length ≤ 3 ∧
    (ResolvesAll s [.large 0x400] [0x400] s ∧ (0x400 : Word) ≠ 0 ∧
      s.mem.readByte (2 * ((0x400 : Word).toNat : Int)) = none) ∧
    (ResolvesAll s16 [.large 0x100] [0x100] s16 ∧ (0x100 : Word) ≠ 0 ∧
      s16.mem.readByte (2 * ((0x100 : Word).toNat : Int)) = some 16 ∧ 15 < (16 : Byte).toNat) ∧
    (ResolvesAll full [.large 0x100] [0x100] full ∧
      full.mem.readByte (2 * ((0x100 : Word).toNat : Int)) = some 3 ∧ (3 : Byte).toNat ≤ 15 ∧
      full.params.maxFrames = some (full.callers.length + 1)) :=
  ⟨by decide, ⟨.cons _ _ _ _ _ _ _ (.large _ 0x400) (.nil _), by decide, by decide +kernel⟩,
    ⟨.cons _ _ _ _ _ _ _ (.large _ 0x100) (.nil _), by decide, by decide +kernel, by decide⟩,
    .cons _ _ _ _ _ _ _ (.large _ 0x100) (.nil _), by decide +kernel, by decide, by decide +kernel⟩

/-- The second of two default words past the image, and a call to nothing with no store byte. -/
theorem witness_CallFaultsInOrder_defaults :
    (let s := cut [2, 0, 0]
     ResolvesAll s [.large 0x80] [0x80] s ∧ (0x80 : Word) ≠ 0 ∧
      s.mem.readByte (2 * ((0x80 : Word).toNat : Int)) = some 2 ∧ (2 : Byte).toNat ≤ 15 ∧
      s.params.maxFrames ≠ some (s.callers.length + 1) ∧ 1 < (2 : Byte).toNat ∧
      (∀ i : Nat, i < 1 → (s.mem.readWord (2 * ((0x80 : Word).toNat : Int) + 1 + 2 * i)).isSome = true) ∧
      s.mem.readWord (2 * ((0x80 : Word).toNat : Int) + 1 + 2 * (1 : Nat)) = none) ∧
    let s := cut [0xE0, 0x3F, 0x00, 0x00]
    ResolvesAll s [.large 0] [0] s ∧
      StoreFails s (endOf (.call [.large 0]) s) (.outOfBounds 0x104) :=
  ⟨⟨.cons _ _ _ _ _ _ _ (.large _ 0x80) (.nil _), by decide, by decide +kernel, by decide, by decide,
    by decide, by decide +kernel, by decide +kernel⟩,
    .cons _ _ _ _ _ _ _ (.large _ 0) (.nil _), .unreadable (by decide +kernel)⟩

/-- Object n of the fixture through the port. -/
theorem sees_fixture (bs : List Byte) (k : List Word) :
    SeesObject (start bs k) 2 (object 1 3 0 ['b', 'o', 'x']) := .inr ⟨by decide, rfl⟩

theorem witness_ReturnInstructionsReturn :
    (∃ t, Resolves (nested [] []) (.small 9) 9 (nested [] []) ∧ Returns (nested [] []) 9 t) ∧
    ((start [] []).callers = [] ∧ Resolves (start [] []) (.small 9) 9 (start [] [])) ∧
    (∃ t u, Returns (nested [] []) 1 t ∧ Returns (nested [] []) 0 u) ∧
    let s := start [0x06, 0x02, 0x01, 0xC1] []
    s.callers = [] ∧ Resolves s (.small 2) 2 s ∧ Resolves s (.small 1) 1 s ∧
    SeesObject s 2 (object 1 3 0 ['b', 'o', 'x']) ∧
    BranchSuffix s.mem (endOf (.jin .long [.small 2, .small 1]) s)
      (decide ((object 1 3 0 ['b', 'o', 'x']).parent = 1)) 1 0x104 :=
  ⟨⟨_, .small _ 9, returns_nested [] [] 9 (by decide +kernel)⟩, ⟨rfl, .small _ 9⟩,
    ⟨_, _, returns_nested [] [] 1 (by decide +kernel), returns_nested [] [] 0 (by decide +kernel)⟩,
    rfl, .small _ 2, .small _ 1, sees_fixture _ _, .short 0xC1 (by decide +kernel) (by decide)⟩

/-- The caller's store byte names 255, or its stack is full. -/
theorem witness_ReturnInstructionsReturn_faults :
    (Resolves (nestedFull 255) (.small 9) 9 (nestedFull 255) ∧
      ReturnFails (nestedFull 255) (.invalidVariableIndex 255)) ∧
    ReturnFails (nestedFull 0) .stackOverflow :=
  ⟨⟨.small _ 9, .store _ [] _ rfl (.unwritable 0xFF _ (by decide +kernel) (.index _ 255 (by decide)))⟩,
    .store _ [] _ rfl (.unwritable 0 _ (by decide +kernel) (.overflow _ rfl))⟩

/-- get_sibling 2 with the store byte 0x10 and a short branch. -/
theorem witness_ObjectLinksAreStored :
    let s := start [0x91, 0x02, 0x10, 0xC5] []
    Resolves s (.small 2) 2 s ∧ SeesObject s 2 (object 1 3 0 ['b', 'o', 'x']) ∧
    (StoresAt s (endOf (.getSibling (.small 2)) s) 3 (s.withGlobal 0 3) ∧
      Branches (s.withGlobal 0 3) (decide ((3 : Word) ≠ 0)) (endOf (.getSibling (.small 2)) s + 1)
        ((s.withGlobal 0 3).withPc (0x104 + 5 - 2))) ∧
    (StoresAt s (endOf (.getChild (.small 2)) s) 0 (s.withGlobal 0 0) ∧
      Branches (s.withGlobal 0 0) (decide ((0 : Word) ≠ 0)) (endOf (.getChild (.small 2)) s + 1)
        ((s.withGlobal 0 0).withPc 0x104)) ∧
    StoresAt s (endOf (.getParent (.small 2)) s) 1 (s.withGlobal 0 1) := by
  have hs : ∀ x, StoresAt (start [0x91, 0x02, 0x10, 0xC5] []) 0x102 x
      ((start [0x91, 0x02, 0x10, 0xC5] []).withGlobal 0 x) := fun x =>
    ⟨0x10, by decide +kernel, .globalCell _ 0x10 x (by decide) (by decide)⟩
  exact ⟨.small _ 2, sees_fixture _ _,
    ⟨hs 3, .jumps 5 0x104 (.short 0xC5 (by decide +kernel) (by decide)) (by decide) (by decide)⟩,
    ⟨hs 0, .stays true 5 0x104 (.short 0xC5 (by decide +kernel) (by decide)) (by decide)⟩, hs 1⟩

/-- No store byte; and, the store done, no branch byte and a return in the initial frame. -/
theorem witness_ObjectLinksAreStored_faults :
    let i := Instr.getSibling (.small 2)
    let j := Instr.getChild (.small 2)
    StoreFails (cut [0x91, 0x02]) (endOf i (cut [0x91, 0x02])) (.outOfBounds 0x102) ∧
    (let s := cut [0x91, 0x02, 0x10]
     StoresAt s (endOf i s) 3 (s.withGlobal 0 3) ∧
      BranchFails (s.withGlobal 0 3) (decide ((3 : Word) ≠ 0)) (endOf i s + 1) (.outOfBounds 0x103)) ∧
    (let s := start [0x92, 0x02, 0x10, 0x41] []
     StoresAt s (endOf j s) 0 (s.withGlobal 0 0) ∧
      BranchFails (s.withGlobal 0 0) (decide ((0 : Word) ≠ 0)) (endOf j s + 1) .returnFromMain) :=
  ⟨.unreadable (by decide +kernel),
    ⟨⟨0x10, by decide +kernel, .globalCell _ 0x10 3 (by decide) (by decide)⟩,
      .first (by decide +kernel)⟩,
    ⟨0x10, by decide +kernel, .globalCell _ 0x10 0 (by decide) (by decide)⟩,
    .returns 1 0x104 _ (.short 0x41 (by decide +kernel) (by decide)) (.inr rfl) (.initial rfl)⟩

theorem witness_ObjectTestsBranch :
    let s := start [0x06, 0x02, 0x01, 0xC5] []
    let g := object 1 3 0 ['b', 'o', 'x']
    Resolves s (.small 2) 2 s ∧ Resolves s (.small 1) 1 s ∧ SeesObject s 2 g ∧
    Branches s (decide (g.parent = 1)) (endOf (.jin .long [.small 2, .small 1]) s)
      (s.withPc (0x104 + 5 - 2)) ∧
    (g.attrs[(1 : Word).toNat]? = some false ∧
      Branches s false (endOf (.testAttr .long [.small 2, .small 1]) s) (s.withPc 0x104)) :=
  ⟨.small _ 2, .small _ 1, sees_fixture _ _,
    .jumps 5 0x104 (.short 0xC5 (by decide +kernel) (by decide)) (by decide) (by decide),
    by decide +kernel, .stays true 5 0x104 (.short 0xC5 (by decide +kernel) (by decide)) (by decide)⟩

/-- No branch byte, no second branch byte, and a return in the initial frame. -/
theorem witness_ObjectTestsBranch_faults :
    let g := object 1 3 0 ['b', 'o', 'x']
    let i := Instr.jin .long [.small 2, .small 1]
    let j := Instr.testAttr .long [.small 2, .small 1]
    BranchFails (cut [0x06, 0x02, 0x01]) (decide (g.parent = 1)) (endOf i (cut [0x06, 0x02, 0x01]))
      (.outOfBounds 0x103) ∧
    g.attrs[(1 : Word).toNat]? = some false ∧
    BranchFails (cut [0x0A, 0x02, 0x01, 0x80]) false (endOf j (cut [0x0A, 0x02, 0x01, 0x80]))
      (.outOfBounds 0x104) ∧
    BranchFails (start [0x0A, 0x02, 0x01, 0x40] []) false (endOf j (start [0x0A, 0x02, 0x01, 0x40] []))
      .returnFromMain :=
  ⟨.first (by decide +kernel), by decide +kernel,
    .second 0x80 (by decide +kernel) (by decide) (by decide +kernel),
    .returns 0 0x104 _ (.short 0x40 (by decide +kernel) (by decide)) (.inl rfl) (.initial rfl)⟩

/-- Attribute 31, of the last object. -/
theorem witness_SetAndClearAttrWriteOneFlag :
    let s := start [] []
    Resolves s (.small 4) 4 s ∧ Resolves s (.small 31) 31 s ∧ (4 : Word) ≠ 0 ∧
    s.objs[(4 : Word).toNat - 1]? = some (object 1 0 0 ['k', 'e', 'y']) ∧ (31 : Word).toNat < 32 :=
  ⟨.small _ 4, .small _ 31, by decide, rfl, by decide⟩

/-- Two objects, and one object into itself. -/
theorem witness_InsertObjDoesTheInsertHalf :
    let s := start [] []
    Resolves s (.small 4) 4 s ∧ Resolves s (.small 3) 3 s ∧ (4 : Word) ≠ 0 ∧ (3 : Word) ≠ 0 ∧
    s.objs[(4 : Word).toNat - 1]? = some (object 1 0 0 ['k', 'e', 'y']) ∧
    s.objs[(3 : Word).toNat - 1]? = some (object 1 4 0 ['l', 'a', 'm', 'p']) ∧ (4 : Word) ≠ 3 :=
  ⟨.small _ 4, .small _ 3, by decide, by decide, rfl, rfl, by decide⟩

/-- Object 5 of 4, object 0, and attribute 32 of object 4. -/
theorem witness_InvalidObjectBeforeInvalidAttribute :
    let s := start [] []
    (Resolves s (.small 5) 5 s ∧ Resolves s (.small 32) 32 s ∧ s.objs.length < (5 : Word).toNat) ∧
    Resolves s (.small 0) 0 s ∧
    (Resolves s (.small 4) 4 s ∧ (4 : Word) ≠ 0 ∧ (4 : Word).toNat ≤ s.objs.length ∧
      s.objs.length < (32 : Word).toNat ∧ 32 ≤ (32 : Word).toNat) :=
  ⟨⟨.small _ 5, .small _ 32, by decide⟩, .small _ 0, .small _ 4, by decide, by decide, by decide, by decide⟩

/-- Object 5 of 4, read. -/
theorem witness_InvalidObjectBeforeInvalidAttribute_links :
    Resolves (start [] []) (.small 5) 5 (start [] []) ∧ (start [] []).objs.length < (5 : Word).toNat :=
  ⟨.small _ 5, by decide⟩

/-- The words 0x3551 and 0xC685 of TXT-1, and a string with no end bit before the image ends. -/
theorem witness_CodesReadToTheEndBit :
    PackedText (start [0xB2, 0x35, 0x51, 0xC6, 0x85] []).mem 0x101
      (codesOfWord 0x3551 ++ codesOfWord 0xC685) 0x105 ∧
    Memory.codes (Memory.place ⟨4, []⟩ 0 [0, 0, 0, 0]) 0 = .error 4 :=
  ⟨.more 0x101 0x3551 _ 0x105 (by decide +kernel) (by decide)
    (.last 0x103 0xC685 (by decide +kernel) (by decide)), by decide +kernel⟩

theorem witness_PrintEmitsDecodedText :
    let s := start [0xB2, 0x94, 0xA5] []
    PackedText s.mem (s.cur.pc + 1) (codesOfWord 0x94A5) 0x103 :=
  .last 0x101 0x94A5 (by decide +kernel) (by decide)

/-- One word with no end bit, and then half a word. -/
theorem witness_PrintEmitsDecodedText_runs_out :
    let s := cut [0xB2, 0x35, 0x51, 0xC6]
    TextRunsOut s.mem (s.cur.pc + 1) 0x103 :=
  .later 0x101 0x3551 _ (by decide +kernel) (by decide) (.here 0x103 (by decide +kernel))

/-- Each of the three ways not to be the escape. -/
theorem witness_EscapeOnlyAtStreamStart :
    ([5, 6, 2, 0] : List Code).length < 5 ∧ ([13, 6, 2, 0, 5] : List Code)[0]? ≠ some 5 ∧
    ([5, 7, 2, 0, 5] : List Code)[1]? ≠ some 6 := by decide

theorem witness_TextLoopFollowsEachCase :
    (1 ≤ (1 : Code).toNat ∧ (3 : Code).toNat ≤ 3) ∧
    (6 ≤ (6 : Code).toNat ∧ (Alphabet.a0 = .a2 → 8 ≤ (6 : Code).toNat)) ∧
    (6 ≤ (8 : Code).toNat ∧ (Alphabet.a2 = .a2 → 8 ≤ (8 : Code).toNat)) := by decide

theorem witness_TrailingShiftsEmitNothing : ∀ c ∈ ([5, 4, 5] : List Code), c = 4 ∨ c = 5 := by decide

theorem witness_AbbreviationFreeTextIgnoresTable :
    ∀ c ∈ ([13, 0, 4, 31] : List Code), c = 0 ∨ 4 ≤ c.toNat := by decide

theorem witness_NumberCharacterAndNewlineReachTheSink :
    let s := start [] []
    Resolves s (.large 0x8000) 0x8000 s ∧
    (Resolves s (.small 32) 32 s ∧ 32 ≤ (32 : Word).toNat ∧ (126 : Word).toNat ≤ 126) :=
  ⟨.large _ 0x8000, .small _ 32, by decide, by decide⟩

theorem witness_PrintObjEmitsName :
    let s := start [] []
    (Resolves s (.small 2) 2 s ∧ SeesObject s 2 (object 1 3 0 ['b', 'o', 'x'])) ∧
    (Resolves s (.small 0) 0 s ∧ SeesObject s 0 sentinel) ∧
    (Resolves s (.small 5) 5 s ∧ s.objs.length < (5 : Word).toNat) :=
  ⟨⟨.small _ 2, sees_fixture _ _⟩,
    ⟨.small _ 0, .inl ⟨rfl, rfl, rfl, rfl, rfl, by decide +kernel⟩⟩, .small _ 5, by decide⟩

/-- The last key of each class. -/
theorem witness_OpcodesWithoutHandlerFault :
    ((Instr.unimpl2OP_31 .long [.small 1, .var 2]).shape.number = some 31 ∧
      unimplementedKey .op2 (31 : BitVec 5).toNat = true) ∧
    ((Instr.unimpl1OP_15 (.small 1)).shape.number = some 15 ∧ unimplementedKey .op1 (15 : BitVec 5).toNat = true) ∧
    (Instr.unimpl0OP_15.shape.number = some 15 ∧ unimplementedKey .op0 (15 : BitVec 5).toNat = true) ∧
    (Instr.unimplVAR_31 []).shape.number = some 31 ∧ unimplementedKey .vari (31 : BitVec 5).toNat = true := by
  decide

theorem witness_WrongOperandCountFaults :
    (([] : List Operand).length ≠ 2 ∧ ([] : List Operand).length ≠ 1 ∧ ([] : List Operand).length = 0) ∧
    [Operand.small 1, .small 2, .small 3].length ≠ 2 ∧ [Operand.small 1, .small 2].length ≠ 1 ∧
    4 < (List.replicate 5 (Operand.small 1)).length := by decide

theorem witness_OperandFaultsComeFirst :
    let s := start [] []
    ResolveFails s (.var 5) (.unsetLocal 5) ∧ ResolveFails s .omitted .decodeError ∧
    (Resolves s (.small 1) 1 s ∧ ResolveFails s (.var 0) .stackUnderflow) :=
  ⟨.var _ 5 _ (.unset _ 5 (by decide) (by decide) (by decide +kernel)), .omitted _, .small _ 1,
    .var _ 0 _ (.underflow _ rfl)⟩

/-- The fourth operand of a call. -/
theorem witness_OperandFaultsComeFirst_call :
    let s := start [] []
    ([Operand.large 0x100, .small 1, .small 2] ++ Operand.var 0 :: []).length ≤ 4 ∧
    ResolvesAll s [.large 0x100, .small 1, .small 2] [0x100, 1, 2] s ∧
    ResolveFails s (.var 0) .stackUnderflow :=
  ⟨by decide, .cons _ _ _ _ _ _ _ (.large _ 0x100) (.cons _ _ _ _ _ _ _ (.small _ 1)
    (.cons _ _ _ _ _ _ _ (.small _ 2) (.nil _))), .var _ 0 _ (.underflow _ rfl)⟩

/-- The state an instruction leaves. -/
def after (i : Instr) (s : State) : State :=
  match exec i s with
  | .next t => t
  | .fault _ | .refused _ => s

theorem exec_after (i : Instr) (s : State) : exec i s = .next (after i s) := by
  cases i <;> rfl

theorem witness_StoreInstructionsFrame :
    let s := start [0x14, 0x05, 0x07, 0x10] []
    let i := Instr.add .long [.small 5, .small 7]
    i ∈ [Instr.add .long [.small 5, .small 7], .sub .long [.small 5, .small 7],
      .div .long [.small 5, .small 7], .mod .long [.small 5, .small 7], .getParent (.small 1)] ∧
    exec i s = .next (after i s) ∧ (after i s).faulted = false ∧ s.mem.readByte (endOf i s) = some 0x10 :=
  ⟨by simp, exec_after _ _, by decide +kernel, by decide +kernel⟩

theorem witness_ByReferenceInstructionsFrame :
    let s := start [] [7]
    let i := Instr.inc (.small 0)
    i ∈ [Instr.store .long [.small 0, .small 1], .inc (.small 0), .dec (.small 0)] ∧
    Resolves s (.small 0) 0 s ∧ exec i s = .next (after i s) ∧ (after i s).faulted = false :=
  ⟨by simp, .small _ 0, exec_after _ _, by decide +kernel⟩

theorem witness_NoDestinationInstructionsFrame :
    let s := start [] [7]
    (exec (.printNum [.var 0]) s = .next (after (.printNum [.var 0]) s) ∧
      (after (.printNum [.var 0]) s).faulted = false) ∧
    let i := Instr.setAttr .long [.small 1, .small 5]
    exec i s = .next (after i s) ∧ (after i s).faulted = false :=
  ⟨⟨exec_after _ _, by decide +kernel⟩, exec_after _ _, by decide +kernel⟩

theorem witness_BranchInstructionsFrame :
    (let s := start [0x06, 0x02, 0x01, 0xC5] []
     let i := Instr.jin .long [.small 2, .small 1]
     exec i s = .next (after i s) ∧ (after i s).faulted = false ∧ (after i s).callers = s.callers) ∧
    let s := start [0x91, 0x02, 0x10, 0xC5] []
    let i := Instr.getSibling (.small 2)
    exec i s = .next (after i s) ∧ (after i s).faulted = false ∧ (after i s).callers = s.callers ∧
      s.mem.readByte (endOf i s) = some 0x10 :=
  ⟨⟨exec_after _ _, by decide +kernel, by decide +kernel⟩, exec_after _ _, by decide +kernel,
    by decide +kernel, by decide +kernel⟩

theorem witness_CallAndReturnFrame :
    (let s := withRoutine [0xE0, 0x1F, 0x01, 0x00, 0x05, 0x10]
     let i := Instr.call [.large 0x100, .small 5]
     exec i s = .next (after i s) ∧ (after i s).faulted = false ∧ (after i s).callers ≠ s.callers) ∧
    (let s := start [0xE0, 0x3F, 0x00, 0x00, 0x10] []
     let i := Instr.call [.large 0]
     exec i s = .next (after i s) ∧ (after i s).faulted = false ∧ (after i s).callers = s.callers ∧
      s.mem.readByte (endOf i s) = some 0x10) ∧
    (let s := nested [0xB0] []
     exec .rtrue s = .next (after .rtrue s) ∧ (after .rtrue s).faulted = false ∧
      s.callers = initialFrame 0x300 :: (after .rtrue s).callers ∧
      s.mem.readByte (initialFrame 0x300).pc = some 0x10) ∧
    let s := nested [0x91, 0x02, 0x11, 0xC1] []
    let i := Instr.getSibling (.small 2)
    exec i s = .next (after i s) ∧ (after i s).faulted = false ∧
      s.callers = initialFrame 0x300 :: (after i s).callers ∧
      s.mem.readByte (initialFrame 0x300).pc = some 0x10 ∧ s.mem.readByte (endOf i s) = some 0x11 :=
  ⟨⟨exec_after _ _, by decide +kernel, by decide +kernel⟩,
    ⟨exec_after _ _, by decide +kernel, by decide +kernel, by decide +kernel⟩,
    ⟨exec_after _ _, by decide +kernel, by decide +kernel, by decide +kernel⟩, exec_after _ _,
    by decide +kernel, by decide +kernel, by decide +kernel, by decide +kernel⟩

/-- An instruction for each clause: the ObjectTable, the sink, the status, the callers. -/
theorem witness_OnlyNamedInstructionsChangeEachPart :
    (let s := start [] []
     let i := Instr.setAttr .long [.small 1, .small 5]
     exec i s = .next (after i s) ∧ (after i s).faulted = false ∧ (after i s).objs ≠ s.objs) ∧
    (let s := start [] []
     exec .newLine s = .next (after .newLine s) ∧ (after .newLine s).faulted = false ∧
      (after .newLine s).sink ≠ s.sink) ∧
    (let s := start [] []
     exec .quit s = .next (after .quit s) ∧ (after .quit s).faulted = false ∧
      (after .quit s).status ≠ s.status) ∧
    let s := nested [] []
    exec .rtrue s = .next (after .rtrue s) ∧ (after .rtrue s).faulted = false ∧
      (after .rtrue s).callers ≠ s.callers :=
  ⟨⟨exec_after _ _, by decide +kernel, by decide +kernel⟩,
    ⟨exec_after _ _, by decide +kernel, by decide +kernel⟩,
    ⟨exec_after _ _, by decide +kernel, by decide +kernel⟩, exec_after _ _, by decide +kernel,
    by decide +kernel⟩

theorem step_stepped {s : State} (h : s.status = .running) : step s = .next (stepped s) := by
  unfold stepped step
  rw [h]
  simp only
  split
  · next i _ => rw [exec_after]
  · rfl

/-- The invariant holds at a state that can step. -/
theorem witness_EveryStepKeepsTheBounds :
    State.reset.Inv ∧ step State.reset = .next (stepped State.reset) := by
  refine ⟨?_, step_stepped rfl⟩
  unfold State.Inv State.statusAgrees State.bounded
  decide

theorem witness_StepsNeverChangeImageOrSnapshots :
    step (start [0xBB] []) = .next (stepped (start [0xBB] [])) ∧
    (stepped (start [0xBB] [])).faulted = false := ⟨step_stepped rfl, by decide +kernel⟩

theorem witness_StepsKeepObjectLinksInTable :
    let s := start [0x0E, 0x04, 0x03] []
    s.linksInTable ∧ step s = .next (stepped s) ∧ (stepped s).faulted = false := by
  refine ⟨?_, step_stepped rfl, by decide +kernel⟩
  unfold State.linksInTable
  decide +kernel

/-- A step that leaves the callers, one that calls, one that returns. -/
theorem witness_CallStackMovesByOneFrame :
    (let s := start [0xBB] []
     step s = .next (stepped s) ∧ (stepped s).faulted = false ∧ (stepped s).callers = s.callers) ∧
    (let s := withRoutine [0xE0, 0x1F, 0x01, 0x00, 0x05, 0x10]
     step s = .next (stepped s) ∧ (stepped s).faulted = false ∧ (stepped s).callers.length = 1) ∧
    let s := nested [0xB0] []
    step s = .next (stepped s) ∧ (stepped s).faulted = false ∧ (stepped s).callers.length = 0 :=
  ⟨⟨step_stepped rfl, by decide +kernel, by decide +kernel⟩,
    ⟨step_stepped rfl, by decide +kernel, by decide +kernel⟩, step_stepped rfl, by decide +kernel,
    by decide +kernel⟩

/-- A running state, with quit, with an instruction that faults, and with a fetch that does. -/
theorem witness_OnlyQuitEndsARunNormally :
    let s := start [0xBA] []
    s.statusAgrees ∧ s.status = .running ∧ exec .quit s = .next (after .quit s) ∧
    exec .rtrue s = .next (after .rtrue s) ∧ step s = .next (stepped s) ∧
    step (cut []) = .next (stepped (cut [])) :=
  ⟨⟨fun _ => rfl, fun _ => rfl⟩, rfl, exec_after _ _, exec_after _ _, step_stepped rfl, step_stepped rfl⟩

theorem witness_HeaderRegistersAreNeverRead :
    let s := start [] []
    exec .newLine s = .next (after .newLine s) ∧ (after .newLine s).faulted = false :=
  ⟨exec_after _ _, by decide +kernel⟩

theorem witness_GlobalCell239IsOutOfReach :
    let s := start [] []
    let i := Instr.inc (.small 0xFE)
    exec i s = .next (after i s) ∧ (after i s).faulted = false :=
  ⟨exec_after _ _, by decide +kernel⟩

/-- The blank image has the global table and, in every abbreviation entry, the terminated word at
2 × 0xFFFF. -/
theorem blank_readable : GlobalsReadable blankImage ∧ AbbrevsReadable blankImage := by
  refine ⟨⟨0xFFFF, by decide +kernel, fun i hi => ⟨0xFFFF, ?_⟩⟩,
    ⟨0xFFFF, by decide +kernel, fun i hi => ⟨0xFFFF, _, _, ?_,
      .last _ 0xFFFF (by decide +kernel) (by decide)⟩⟩⟩
  · revert i; decide +kernel
  · revert i; decide +kernel

theorem witness_SuccessfulResetLoadsTheTables :
    0x1A ≤ blankImage.size ∧ GlobalsReadable blankImage ∧ AbbrevsReadable blankImage ∧
    (boot ⟨none, none⟩ blankImage (some fixture) true).status = .running :=
  ⟨by decide, blank_readable.1, blank_readable.2, by decide +kernel⟩

/-- The blank image cut off so that its global table ends one byte early. -/
def shortGlobals : Memory := ⟨0xFFFF + 479, []⟩

/-- An image whose first abbreviation string, at 2 × 0x0100, is a word with no end bit at its end. -/
def unendedAbbrev : Memory :=
  Memory.place (Memory.place (Memory.place ⟨0x202, []⟩ 0x0C [0x00, 0x00]) 0x18 [0x00, 0x1A, 0x01, 0x00])
    0x200 [0x00, 0x00]

/-- Each way to fail, and a reset that failed. -/
theorem witness_FailedResetIsInitError :
    (⟨0x19, []⟩ : Memory).size < 0x1A ∧ (0x1A ≤ shortGlobals.size ∧ ¬ GlobalsReadable shortGlobals) ∧
    (0x1A ≤ unendedAbbrev.size ∧ GlobalsReadable unendedAbbrev ∧ ¬ AbbrevsReadable unendedAbbrev) ∧
    (none : Option (List GameObject)) = none ∧ some fixture ≠ none ∧
    (boot ⟨none, none⟩ blankImage none true).status = .halted := by
  refine ⟨by decide, ⟨by decide, ?_⟩, ⟨by decide +kernel, ⟨0, by decide +kernel, fun i hi => ?_⟩, ?_⟩, rfl,
    by decide, by decide +kernel⟩
  · rintro ⟨g, hg, h⟩
    rw [show shortGlobals.readWord 0x0C = some 0xFFFF by decide +kernel] at hg
    cases hg
    obtain ⟨w, hw⟩ := h 239 (by decide)
    rw [show shortGlobals.readWord (((0xFFFF : Word).toNat : Int) + 2 * (239 : Nat)) = none by
      decide +kernel] at hw
    cases hw
  · have h : ∀ i : Nat, i < 240 →
        (unendedAbbrev.readWord (((0 : Word).toNat : Int) + 2 * i)).isSome = true := by decide +kernel
    exact Option.isSome_iff_exists.1 (h i hi)
  · rintro ⟨a, ha, h⟩
    rw [show unendedAbbrev.readWord 0x18 = some 0x1A by decide +kernel] at ha
    cases ha
    obtain ⟨p, cs, e, hp, ht⟩ := h 0 (by decide)
    rw [show unendedAbbrev.readWord (((0x1A : Word).toNat : Int) + 2 * (0 : Nat)) = some 0x100 by
      decide +kernel] at hp
    cases hp
    cases ht with
    | last _ w hw h15 =>
      rw [show unendedAbbrev.readWord (2 * ((0x100 : Word).toNat : Int)) = some 0 by decide +kernel] at hw
      cases hw
      exact absurd h15 (by decide)
    | more _ w _ _ hw _ ht =>
      cases ht with
      | last _ w hw _ =>
        rw [show unendedAbbrev.readWord (2 * ((0x100 : Word).toNat : Int) + 2) = none by
          decide +kernel] at hw
        cases hw
      | more _ w _ _ hw _ _ =>
        rw [show unendedAbbrev.readWord (2 * ((0x100 : Word).toNat : Int) + 2) = none by
          decide +kernel] at hw
        cases hw

end Sys2Proof.Tests
end

section
/-! PROOFS. The invariant of every step (spec/10_state.md R24, R26, R30), and which parts of the state a step
and an instruction may change (R20, R25, R37): case analyses of Effect. -/

namespace Sys2Proof.Machine

/-! ## Bounds -/

theorem withinBound_of_le {m n : Nat} {b : Option Nat} (h : m ≤ n) (hn : withinBound n b = true) :
    withinBound m b = true := by
  cases b with
  | none => rfl
  | some b => simp only [withinBound, decide_eq_true_eq] at hn ⊢; omega

theorem withinBound_succ {n : Nat} {b : Option Nat} (hn : withinBound n b = true) (hb : b ≠ some n) :
    withinBound (n + 1) b = true := by
  cases b with
  | none => rfl
  | some b =>
    simp only [withinBound, decide_eq_true_eq, ne_eq, Option.some.injEq] at hn hb ⊢; omega

theorem State.bounded_iff {s : State} :
    s.bounded ↔ s.mem.wf = true ∧ s.objs.length ≤ 255 ∧
      withinBound (s.callers.length + 1) s.params.maxFrames = true ∧
      withinBound s.cur.stack.length s.params.maxEvalStack = true ∧
      ∀ f ∈ s.callers, withinBound f.stack.length s.params.maxEvalStack = true := by
  rw [State.bounded, List.forall_mem_cons]

@[simp] theorem State.bounded_withPc {s : State} {a : Int} : (s.withPc a).bounded ↔ s.bounded := by
  simp [State.bounded_iff]

@[simp] theorem State.bounded_emit {s : State} {c : SinkCall} : (s.emit c).bounded ↔ s.bounded := Iff.rfl

@[simp] theorem State.bounded_haltNormally {s : State} {a : Int} :
    (s.haltNormally a).bounded ↔ s.bounded := Iff.rfl

theorem State.bounded.withStack {s : State} {k : List Word} (hs : s.bounded)
    (hk : k <:+ s.cur.stack) : (s.withStack k).bounded := by
  obtain ⟨hm, ho, hf, hc, hcs⟩ := bounded_iff.1 hs
  exact bounded_iff.2 ⟨hm, ho, hf, withinBound_of_le hk.length_le hc, hcs⟩

theorem State.bounded.withObjs {s : State} {os : List GameObject} (hs : s.bounded)
    (hos : os.length = s.objs.length) : (s.withObjs os).bounded := by
  obtain ⟨hm, ho, hf, hc⟩ := hs
  exact ⟨hm, hos ▸ ho, hf, hc⟩

theorem State.bounded.dropFrame {s : State} {f : Frame} {cs : List Frame} (hs : s.bounded)
    (hc : s.callers = f :: cs) : (s.withFrames f cs).bounded := by
  obtain ⟨hm, ho, hf, -, hcs⟩ := bounded_iff.1 hs
  rw [hc] at hf
  exact ⟨hm, ho, withinBound_of_le (by simp) hf, hc ▸ hcs⟩

theorem State.bounded.pushFrame {s : State} {f : Frame} (hs : s.bounded) (hf : f.stack = [])
    (hd : s.params.maxFrames ≠ some (s.callers.length + 1)) :
    (s.withFrames f (s.cur :: s.callers)).bounded := by
  obtain ⟨hm, ho, hn, hc⟩ := hs
  refine bounded_iff.2 ⟨hm, ho, withinBound_succ hn hd, ?_, hc⟩
  exact withinBound_of_le (by simp [hf]) (hc s.cur (by simp))

theorem WritesVar.keeps_bounded {s t : State} {v x : Word} (h : WritesVar s v x t)
    (hs : s.bounded) : t.bounded := by
  obtain ⟨hm, ho, hf, hc, hcs⟩ := State.bounded_iff.1 hs
  cases h with
  | stack _ hk => exact State.bounded_iff.2 ⟨hm, ho, hf, withinBound_succ hc hk, hcs⟩
  | slot => exact State.bounded_iff.2 ⟨hm, ho, hf, hc, hcs⟩
  | globalCell => exact hs

theorem Returns.keeps_bounded {s t : State} {x : Word} (h : Returns s x t) (hs : s.bounded) :
    t.bounded := by
  obtain ⟨f, cs, u, hc, ⟨v, -, hw⟩, rfl⟩ := h
  exact State.bounded_withPc.2 (hw.keeps_bounded (hs.dropFrame hc))

theorem Effect.keeps_bounded {i : Instr} {s t : State} (h : Effect i s t) (hs : s.bounded) :
    t.bounded := by
  cases h with
  | moves k a hk => exact State.bounded_withPc.2 (hs.withStack hk)
  | writes k v x u a hk hw => exact State.bounded_withPc.2 (hw.keeps_bounded (hs.withStack hk))
  | returns k x t hk hr => exact hr.keeps_bounded (hs.withStack hk)
  | writesReturns k v x y u t hk _ hw hr =>
    exact hr.keeps_bounded (hw.keeps_bounded (hs.withStack hk))
  | enters k f ops hk _ hf hd =>
    exact (State.bounded_withPc.2 (hs.withStack hk)).pushFrame hf hd
  | emits k c a hk => exact State.bounded_withPc.2 (State.bounded_emit.2 (hs.withStack hk))
  | flags k n a x hk =>
    exact State.bounded_withPc.2 ((hs.withStack hk).withObjs (modifyObject_length _ _ _))
  | inserts k o d hk =>
    exact State.bounded_withPc.2 ((hs.withStack hk).withObjs (insertRecord_length _ _ _))
  | quits => exact State.bounded_haltNormally.2 hs

/-! ## What an instruction changes, part by part -/

/-- The ways an instruction that does not fault changes the parts other than the registers of R34: it
changes none of them, calls the sink once, writes ObjectTable records, or halts the run. -/
theorem Effect.parts {i : Instr} {s t : State} (h : Effect i s t) :
    (∃ g f cs, t = { s with globals := g, cur := f, callers := cs }) ∨
    (∃ f c, t = { s with cur := f, sink := s.sink ++ [c] } ∧
      (i = .print ∨ i = .newLine ∨ (∃ o, i = .printObj o) ∨
        ∃ ops, i = .printNum ops ∨ i = .printChar ops)) ∨
    (∃ f os, t = { s with cur := f, objs := os } ∧ os.map (·.name) = s.objs.map (·.name) ∧
      ∃ form ops, i = .setAttr form ops ∨ i = .clearAttr form ops ∨ i = .insertObj form ops) ∨
    (t = s.haltNormally s.cur.pc ∧ i = .quit) := by
  cases h with
  | moves => exact .inl ⟨_, _, _, rfl⟩
  | writes k v x u a hk hw =>
    refine .inl ⟨u.globals, { u.cur with pc := a }, s.callers, ?_⟩
    rw [hw.keeps.1]; rfl
  | returns k x t hk hr =>
    obtain ⟨f, -, -, ht⟩ := hr.keeps
    exact .inl ⟨_, _, _, ht⟩
  | writesReturns k v x y u t hk hv hw hr =>
    obtain ⟨f, -, -, ht⟩ := hr.keeps
    refine .inl ⟨t.globals, t.cur, t.callers, ht.trans ?_⟩
    rw [hw.keeps.1]; rfl
  | enters => exact .inl ⟨_, _, _, rfl⟩
  | emits k c a hk hi => exact .inr (.inl ⟨_, c, rfl, hi⟩)
  | flags k n a x hk _ _ hi =>
    obtain ⟨form, ops, hi⟩ := hi
    exact .inr (.inr (.inl ⟨_, _, rfl, modifyObject_names _ _ _ fun _ => rfl, form, ops, by tauto⟩))
  | inserts k o d hk _ _ hi =>
    obtain ⟨form, ops, hi⟩ := hi
    exact .inr (.inr (.inl ⟨_, _, rfl, insertRecord_names _ _ _, form, ops, .inr (.inr hi)⟩))
  | quits hi => exact .inr (.inr (.inr ⟨rfl, hi⟩))

theorem WritesVar.callers_eq {s t : State} {v x : Word} (h : WritesVar s v x t) :
    t.callers = s.callers := by
  rw [h.keeps.1]

/-- The instructions that can return from a routine: the returns, and the branches by an offset of 0 or 1
(R108, R205–R207). -/
def MayReturn (i : Instr) : Prop :=
  i = .rtrue ∨ i = .rfalse ∨ (∃ o, i = .ret o ∨ i = .getSibling o ∨ i = .getChild o) ∨
    ∃ form ops, i = .jin form ops ∨ i = .testAttr form ops

/-- What an instruction that does not fault does to the call stack, and which instructions move it. -/
theorem Effect.callers_cases {i : Instr} {s t : State} (h : Effect i s t) :
    t.callers = s.callers ∨
    ((∃ ops, i = .call ops) ∧ ∃ c, t.callers = c :: s.callers ∧ c.locals = s.cur.locals ∧
      c.stack <:+ s.cur.stack ∧ t.cur.stack = []) ∨
    (MayReturn i ∧ ∃ f, s.callers = f :: t.callers ∧ t.cur.pc = f.pc + 1) := by
  cases h with
  | moves => exact .inl rfl
  | writes k v x u a hk hw => exact .inl hw.callers_eq
  | returns k x t hk hr hi =>
    obtain ⟨f, hf, hpc, -⟩ := hr.keeps
    exact .inr (.inr ⟨hi.imp_right (Or.imp_right (Or.imp_left fun ⟨o, h⟩ => ⟨o, .inl h⟩)), f, hf, hpc⟩)
  | writesReturns k v x y u t hk hv hw hr hi =>
    obtain ⟨f, hf, hpc, -⟩ := hr.keeps
    obtain ⟨o, hi⟩ := hi
    exact .inr (.inr ⟨.inr (.inr (.inl ⟨o, .inr hi⟩)), f, hw.callers_eq ▸ hf, hpc⟩)
  | enters k f ops hk hi hf => exact .inr (.inl ⟨⟨ops, hi⟩, _, rfl, rfl, hk, hf⟩)
  | emits => exact .inl rfl
  | flags => exact .inl rfl
  | inserts => exact .inl rfl
  | quits => exact .inl rfl

/-! ## What a step does -/

/-- A step that gives a next state is taken by a running block, and is an effect of the instruction it
fetched or a fault. -/
theorem step_cases {s t : State} (h : step s = .next t) :
    s.status = .running ∧
      ((∃ i, exec i s = .next t ∧ Effect i s t) ∨ t.status = .halted ∧ t.faulted = true) := by
  unfold step at h
  split at h
  · cases h
  · next hr =>
    refine ⟨hr, ?_⟩
    split at h
    · next i hi =>
      by_cases hf : FaultOf i s t
      · obtain ⟨k, u, rfl⟩ := hf
        exact .inr ⟨rfl, rfl⟩
      · exact .inl ⟨i, h, exec_effect h hf⟩
    · next e he =>
      cases h
      cases e
      exact .inr ⟨rfl, rfl⟩

/-- A step that does not fault is an effect of some instruction. -/
theorem step_effect {s t : State} (h : step s = .next t) (hf : t.faulted = false) :
    ∃ i, Effect i s t := by
  obtain ⟨-, ⟨i, -, he⟩ | ⟨-, ht⟩⟩ := step_cases h
  · exact ⟨i, he⟩
  · rw [hf] at ht; cases ht

theorem State.statusAgrees_of_halted_faulted {t : State} (hs : t.status = .halted)
    (hf : t.faulted = true) : t.statusAgrees := by
  unfold State.statusAgrees
  rw [hs]
  refine ⟨nofun, fun h => ?_⟩
  rw [State.faulted, h] at hf
  cases hf

/-- An effect changes STATUS and HALT_REASON together or not at all. -/
theorem Effect.keeps_statusAgrees {i : Instr} {s t : State} (h : Effect i s t)
    (hs : s.statusAgrees) : t.statusAgrees := by
  obtain ⟨_, _, _, rfl⟩ | ⟨_, _, rfl, -⟩ | ⟨_, _, rfl, -⟩ | ⟨rfl, -⟩ := h.parts
  · exact hs
  · exact hs
  · exact hs
  · exact ⟨nofun, nofun⟩

/-- Settles O50: a step of a running block is an effect, which keeps every bound, or a fault, which binds
only the status registers. -/
theorem everyStepKeepsTheBounds : Obligations.EveryStepKeepsTheBounds := by
  unfold Obligations.EveryStepKeepsTheBounds
  intro s t ⟨hs, hb⟩ h
  obtain ⟨hr, ⟨i, -, he⟩ | ⟨hh, hf⟩⟩ := step_cases h
  · have hn : s.faulted = false := by rw [State.faulted, hs.1 hr]; rfl
    exact ⟨he.keeps_statusAgrees hs, fun _ => he.keeps_bounded (hb hn)⟩
  · exact ⟨State.statusAgrees_of_halted_faulted hh hf, fun h => by rw [hf] at h; cases h⟩

/-- Settles O52, from the parts an effect can change. -/
theorem stepsNeverChangeImageOrSnapshots : Obligations.StepsNeverChangeImageOrSnapshots := by
  unfold Obligations.StepsNeverChangeImageOrSnapshots
  intro s t h hf
  obtain ⟨i, he⟩ := step_effect h hf
  obtain ⟨_, _, _, rfl⟩ | ⟨_, c, rfl, -⟩ | ⟨_, _, rfl, hn, -⟩ | ⟨rfl, -⟩ := he.parts
  · exact ⟨rfl, rfl, rfl, rfl, rfl, fun _ => rfl, .inl rfl⟩
  · exact ⟨rfl, rfl, rfl, rfl, rfl, fun _ => rfl, .inr ⟨c, rfl⟩⟩
  · exact ⟨rfl, rfl, rfl, rfl, hn, fun _ => rfl, .inl rfl⟩
  · exact ⟨rfl, rfl, rfl, rfl, rfl, fun _ => rfl, .inl rfl⟩

/-- Settles O54, by the ways an effect moves the call stack. -/
theorem callStackMovesByOneFrame : Obligations.CallStackMovesByOneFrame := by
  unfold Obligations.CallStackMovesByOneFrame
  intro s t h hf
  obtain ⟨i, he⟩ := step_effect h hf
  obtain hc | ⟨-, hc⟩ | ⟨-, hc⟩ := he.callers_cases
  · exact .inl hc
  · exact .inr (.inl hc)
  · exact .inr (.inr hc)

/-- Settles O49, by the parts an effect can change and the instructions each effect belongs to. -/
theorem onlyNamedInstructionsChangeEachPart : Obligations.OnlyNamedInstructionsChangeEachPart := by
  unfold Obligations.OnlyNamedInstructionsChangeEachPart
  intro i s t h hf
  have he := exec_effect h (not_faultOf hf)
  have hcallers : t.callers ≠ s.callers → i = .rtrue ∨ i = .rfalse ∨ (∃ ops, i = .call ops) ∨
      (∃ o, i = .ret o ∨ i = .getSibling o ∨ i = .getChild o) ∨
      ∃ form ops, i = .jin form ops ∨ i = .testAttr form ops := by
    intro hne
    obtain hc | ⟨hi, -⟩ | ⟨hi, -⟩ := he.callers_cases
    · exact absurd hc hne
    · exact .inr (.inr (.inl hi))
    · exact hi.imp_right (Or.imp_right .inr)
  obtain ⟨_, _, _, rfl⟩ | ⟨_, c, rfl, hi⟩ | ⟨_, _, rfl, -, hi⟩ | ⟨rfl, hi⟩ := he.parts
  · exact ⟨by simp, by simp, by simp, ⟨rfl, rfl, rfl⟩, hcallers⟩
  · exact ⟨by simp, fun _ => hi, by simp, ⟨rfl, rfl, rfl⟩, hcallers⟩
  · exact ⟨fun _ => hi, by simp, by simp, ⟨rfl, rfl, rfl⟩, hcallers⟩
  · exact ⟨by simp, by simp, fun _ => hi, ⟨rfl, rfl, rfl⟩, hcallers⟩

end Sys2Proof.Machine
end

section
/-! PROOFS. The frames of the instructions (spec/10_state.md R37): the effect of an instruction is taken case
by case. The cases closed by grind alone are those whose effect belongs to other instructions than the
statement's. -/

namespace Sys2Proof.Machine

/-! ## What a write and a return leave unchanged -/

theorem byteNumber_toNat (b : Byte) : (b.setWidth 16 : Word).toNat = b.toNat :=
  BitVec.toNat_setWidth_of_le (by decide)

/-- A write after the operands have popped, and a move of the pc, change only the variable written. -/
theorem WritesVar.changesOnly {s u : State} {k : List Word} {v x : Word} (hk : k <:+ s.cur.stack)
    (hw : WritesVar (s.withStack k) v x u) (a : Int) : ChangesOnlyVariable v.toNat s (u.withPc a) := by
  cases hw with
  | stack =>
    exact ⟨fun _ _ _ => rfl, fun _ _ _ => rfl, fun h => absurd rfl h, fun _ => ⟨x, k, rfl, hk⟩, rfl,
      fun _ => rfl⟩
  | slot _ _ h1 h2 =>
    refine ⟨fun _ _ _ => rfl, fun j _ hj => ?_, fun _ => hk, fun h => by omega, rfl, fun _ => rfl⟩
    exact Vector.getElem?_setIfInBounds_ne (by omega)
  | globalCell _ _ h1 h2 =>
    refine ⟨fun j _ hj => ?_, fun _ _ _ => rfl, fun _ => hk, fun h => by omega, rfl, fun _ => rfl⟩
    exact Vector.getElem?_setIfInBounds_ne (by omega)

/-- A write through a store byte changes only the variable the byte names. -/
theorem WritesVar.changesOnly_stored {s u : State} {k : List Word} {v x : Word} {q : Int} {b : Byte}
    (hk : k <:+ s.cur.stack) (hw : WritesVar (s.withStack k) v x u)
    (hv : ∃ b' : Byte, s.mem.readByte q = some b' ∧ v = b'.setWidth 16)
    (hb : s.mem.readByte q = some b) (a : Int) : ChangesOnlyVariable b.toNat s (u.withPc a) := by
  obtain ⟨b', hb', rfl⟩ := hv
  obtain rfl : b = b' := Option.some.inj (hb.symm.trans hb')
  rw [← byteNumber_toNat b]
  exact hw.changesOnly hk a

/-- A return changes, of the state with the caller's frame on top, only the variable the caller's store
byte names and the pc. -/
theorem Returns.changesOnly {s t : State} {x : Word} {f : Frame} {b : Byte} (h : Returns s x t)
    (hc : s.callers = f :: t.callers) (hb : s.mem.readByte f.pc = some b) :
    ChangesOnlyVariable b.toNat (s.withFrames f t.callers) t ∧ t.cur.pc = f.pc + 1 := by
  obtain ⟨f', cs, u, hc', ⟨b', hb', hw⟩, rfl⟩ := h
  have hcs : u.callers = cs := hw.callers_eq
  obtain ⟨rfl, -⟩ := List.cons.inj (hc.symm.trans hc')
  rw [State.withPc_callers, hcs]
  exact ⟨WritesVar.changesOnly_stored (s := s.withFrames f cs) (List.suffix_refl _) hw ⟨b', hb', rfl⟩ hb _,
    rfl⟩

/-- A return pops a frame. -/
theorem Returns.callers_ne {s t : State} {x : Word} (h : Returns s x t) : t.callers ≠ s.callers := by
  obtain ⟨f, hf, -⟩ := h.keeps
  rw [hf]
  exact (List.cons_ne_self _ _).symm

/-- Resolve answers one value. -/
theorem Resolves.unique {s t t' : State} {o : Operand} {x y : Word} (h : Resolves s o x t)
    (h' : Resolves s o y t') : x = y := by
  have := (resolve_ok_iff.2 h).symm.trans (resolve_ok_iff.2 h')
  cases this
  rfl

/-! ## The frames by instruction -/

/-- Settles O44: of the effects only a write belongs to these instructions. -/
theorem storeInstructionsFrame : Obligations.StoreInstructionsFrame := by
  unfold Obligations.StoreInstructionsFrame
  intro form ops op i s t b hi h hf hb
  cases exec_effect h (not_faultOf hf) with
  | writes k v x u a hk hw hv =>
    obtain ⟨-, hv, rfl⟩ | hl | hl := hv
    · exact ⟨hw.changesOnly_stored hk hv hb _, rfl⟩
    · grind
    · grind
  | _ => grind

/-- Settles O45: of the effects only a write by reference belongs to these instructions, and the operand
gives one number. -/
theorem byReferenceInstructionsFrame : Obligations.ByReferenceInstructionsFrame := by
  unfold Obligations.ByReferenceInstructionsFrame
  intro form o o2 i s s1 t n hi hr h hf
  cases exec_effect h (not_faultOf hf) with
  | writes k v x u a hk hw hv =>
    obtain ⟨hl, -⟩ | ⟨hl, -⟩ | ⟨⟨form', o', o2', s1', hi', hr'⟩, rfl⟩ := hv
    · grind
    · grind
    · obtain rfl : o = o' := by grind
      obtain rfl := hr.unique hr'
      exact ⟨hw.changesOnly hk _, rfl⟩
  | _ => grind

/-- Settles O46: of the effects only a call of the sink, or a write of records, belongs to these
instructions. -/
theorem noDestinationInstructionsFrame : Obligations.NoDestinationInstructionsFrame := by
  unfold Obligations.NoDestinationInstructionsFrame
  intro form ops op i s t h hf
  constructor
  · intro hi
    cases exec_effect h (not_faultOf hf) with
    | emits k c a hk => exact ⟨rfl, hk, ⟨c, rfl⟩, fun _ => rfl⟩
    | _ => grind
  · intro hi
    cases exec_effect h (not_faultOf hf) with
    | flags k n a x hk => exact ⟨rfl, hk, rfl, modifyObject_length _ _ _, fun _ => rfl⟩
    | inserts k o d hk => exact ⟨rfl, hk, rfl, insertRecord_length _ _ _, fun _ => rfl⟩
    | _ => grind

/-- Settles O47: a branch that leaves the callers as they are has not returned. -/
theorem branchInstructionsFrame : Obligations.BranchInstructionsFrame := by
  unfold Obligations.BranchInstructionsFrame
  intro form ops op i s t h hf hc
  refine ⟨fun hi => ?_, fun b hi hb => ?_⟩
  · cases exec_effect h (not_faultOf hf) with
    | moves k a hk => exact ⟨rfl, hk, fun _ => rfl⟩
    | returns k x t hk hr => exact absurd hc hr.callers_ne
    | _ => grind
  · cases exec_effect h (not_faultOf hf) with
    | writes k v x u a hk hw hv =>
      obtain hl | ⟨-, hv⟩ | hl := hv
      · grind
      · exact hw.changesOnly_stored hk hv hb _
      · grind
    | writesReturns k v x y u t hk hv hw hr => exact absurd (hc.trans hw.callers_eq.symm) hr.callers_ne
    | _ => grind

/-- Settles O48: a call enters a routine or stores 0; of the effects of the others only a return pops a
frame. -/
theorem callAndReturnFrame : Obligations.CallAndReturnFrame := by
  unfold Obligations.CallAndReturnFrame
  intro form ops op i s t h hf
  refine ⟨fun hi hc => ?_, fun b hi hc hb => ?_, fun f b hi hc hb => ?_, fun f b b' hi hc hb hb' => ?_⟩
  · cases exec_effect h (not_faultOf hf) with
    | writes k v x u a hk hw => exact absurd hw.callers_eq hc
    | enters k f ops hk => exact ⟨k, hk, rfl, fun _ => rfl⟩
    | _ => grind
  · cases exec_effect h (not_faultOf hf) with
    | writes k v x u a hk hw hv =>
      obtain ⟨-, hv, rfl⟩ | hl | hl := hv
      · exact ⟨hw.changesOnly_stored hk hv hb _, rfl⟩
      · grind
      · grind
    | enters => exact absurd hc (List.cons_ne_self _ _)
    | _ => grind
  · cases exec_effect h (not_faultOf hf) with
    | returns k x t hk hr => exact hr.changesOnly hc hb
    | moves => exact absurd hc.symm (List.cons_ne_self _ _)
    | _ => grind
  · cases exec_effect h (not_faultOf hf) with
    | writes k v x u a hk hw =>
      exact absurd (hc.symm.trans hw.callers_eq.symm) (List.cons_ne_self _ _)
    | writesReturns k v x y u t hk hv hw hr =>
      obtain ⟨w, hw', rfl⟩ := hv
      obtain rfl : b' = w := Option.some.inj (hb'.symm.trans hw')
      refine ⟨u.globals, fun j hj hne => ?_, ?_⟩
      · obtain ⟨hg, -⟩ := hw.changesOnly hk 0
        exact hg j hj (by rwa [byteNumber_toNat])
      · have hu : u.withFrames f t.callers =
            { s with globals := u.globals, cur := f, callers := t.callers } := by rw [hw.keeps.1]; rfl
        rw [← hu]
        exact hr.changesOnly (hw.callers_eq.trans hc) (by rw [hw.keeps.1]; exact hb)
    | _ => grind

end Sys2Proof.Machine
end

section
/-! PROOFS. What no instruction reads or writes: the header registers (spec/10_state.md R30) and cell 239 of
the GlobalStore (R22). A change of either commutes with every update an instruction makes, so it commutes
with the instruction. -/

namespace Sys2Proof.Machine

/-! ## Changes of the state that no instruction sees -/

/-- A change of the state that no instruction sees and that no instruction undoes: it keeps what
instructions read, and may be made before or after any update of theirs. -/
structure Unseen (φ : State → State) : Prop where
  mem (s : State) : (φ s).mem = s.mem
  abbrevs (s : State) : (φ s).abbrevs = s.abbrevs
  cur (s : State) : (φ s).cur = s.cur
  callers (s : State) : (φ s).callers = s.callers
  params (s : State) : (φ s).params = s.params
  objs (s : State) : (φ s).objs = s.objs
  faulted (s : State) : (φ s).faulted = s.faulted
  globals (s : State) {i : Nat} : i < 239 → (φ s).globals[i]? = s.globals[i]?
  withPc (s : State) (a : Int) : (φ s).withPc a = φ (s.withPc a)
  withStack (s : State) (k : List Word) : (φ s).withStack k = φ (s.withStack k)
  withLocal (s : State) (n : Nat) (x : Word) : (φ s).withLocal n x = φ (s.withLocal n x)
  withGlobal (s : State) {i : Nat} (x : Word) : i < 239 → (φ s).withGlobal i x = φ (s.withGlobal i x)
  withFrames (s : State) (f : Frame) (cs : List Frame) : (φ s).withFrames f cs = φ (s.withFrames f cs)
  emit (s : State) (c : SinkCall) : (φ s).emit c = φ (s.emit c)
  withObjs (s : State) (os : List GameObject) : (φ s).withObjs os = φ (s.withObjs os)
  haltNormally (s : State) (a : Int) : (φ s).haltNormally a = φ (s.haltNormally a)

theorem unseen_header (h : Header) : Unseen fun s => { s with hdr := h } where
  mem _ := rfl
  abbrevs _ := rfl
  cur _ := rfl
  callers _ := rfl
  params _ := rfl
  objs _ := rfl
  faulted _ := rfl
  globals _ _ _ := rfl
  withPc _ _ := rfl
  withStack _ _ := rfl
  withLocal _ _ _ := rfl
  withGlobal _ _ _ _ := rfl
  withFrames _ _ _ := rfl
  emit _ _ := rfl
  withObjs _ _ := rfl
  haltNormally _ _ := rfl

/-- Writes of two global cells may be made in either order. -/
theorem withGlobal_comm (s : State) {i j : Nat} (x y : Word) (h : i ≠ j) :
    (s.withGlobal i x).withGlobal j y = (s.withGlobal j y).withGlobal i x :=
  congrArg (fun g => { s with globals := g })
    (Vector.toArray_inj.1 (Array.setIfInBounds_comm x y h))

/-- Writing back what a global cell holds changes nothing. -/
theorem withGlobal_self (s : State) {i : Nat} (h : i < 240) : s.withGlobal i s.globals[i] = s := by
  have hg : s.globals.setIfInBounds i s.globals[i] = s.globals := by
    ext j hj
    rw [Vector.getElem_setIfInBounds hj]
    split
    · next hij => subst hij; rfl
    · rfl
  rw [State.withGlobal, hg]

theorem unseen_cell239 (x : Word) : Unseen (·.withGlobal 239 x) where
  mem _ := rfl
  abbrevs _ := rfl
  cur _ := rfl
  callers _ := rfl
  params _ := rfl
  objs _ := rfl
  faulted _ := rfl
  globals _ i h := Vector.getElem?_setIfInBounds_ne (by omega)
  withPc _ _ := rfl
  withStack _ _ := rfl
  withLocal _ _ _ := rfl
  withGlobal s i y h := withGlobal_comm s x y (by omega)
  withFrames _ _ _ := rfl
  emit _ _ := rfl
  withObjs _ _ := rfl
  haltNormally _ _ := rfl

/-! ### The relations of an instruction under an unseen change -/

section
variable {φ : State → State} {s t : State}

theorem ReadsVar.map {v x : Word} (hφ : Unseen φ) (h : ReadsVar s v x t) : ReadsVar (φ s) v x (φ t) := by
  cases h with
  | stack _ k hk => rw [← hφ.withStack]; exact .stack _ x k (by rwa [hφ.cur])
  | slot _ _ h1 h2 h3 => exact .slot _ v x h1 h2 (by rwa [hφ.cur])
  | globalCell _ _ h1 h2 h3 => exact .globalCell _ v x h1 h2 (by rwa [hφ.globals _ (by omega)])

theorem WritesVar.map {v x : Word} (hφ : Unseen φ) (h : WritesVar s v x t) :
    WritesVar (φ s) v x (φ t) := by
  cases h with
  | stack _ hk =>
    rw [← hφ.withStack, ← hφ.cur]
    exact .stack _ x (by rwa [hφ.cur, hφ.params])
  | slot _ _ h1 h2 => rw [← hφ.withLocal]; exact .slot _ v x h1 h2
  | globalCell _ _ h1 h2 => rw [← hφ.withGlobal _ _ (by omega)]; exact .globalCell _ v x h1 h2

theorem Resolves.map {o : Operand} {x : Word} (hφ : Unseen φ) (h : Resolves s o x t) :
    Resolves (φ s) o x (φ t) := by
  cases h with
  | large => exact .large _ _
  | small => exact .small _ _
  | var b _ _ h => exact .var _ b x _ (h.map hφ)

theorem ResolvesAll.map {os : List Operand} {xs : List Word} (hφ : Unseen φ)
    (h : ResolvesAll s os xs t) : ResolvesAll (φ s) os xs (φ t) := by
  induction h with
  | nil => exact .nil _
  | cons _ _ _ _ _ _ _ h1 _ ih => exact .cons _ _ _ _ _ _ _ (h1.map hφ) ih

theorem StoresAt.map {q : Int} {x : Word} (hφ : Unseen φ) (h : StoresAt s q x t) :
    StoresAt (φ s) q x (φ t) := by
  obtain ⟨b, hb, hw⟩ := h
  exact ⟨b, by rwa [hφ.mem], hw.map hφ⟩

theorem Returns.map {x : Word} (hφ : Unseen φ) (h : Returns s x t) : Returns (φ s) x (φ t) := by
  obtain ⟨f, cs, u, hc, hs, rfl⟩ := h
  exact ⟨f, cs, φ u, by rwa [hφ.callers], by rw [hφ.withFrames]; exact hs.map hφ, (hφ.withPc _ _).symm⟩

theorem Branches.map {cond : Bool} {q : Int} (hφ : Unseen φ) (h : Branches s cond q t) :
    Branches (φ s) cond q (φ t) := by
  cases h with
  | stays p off after hs hp => rw [← hφ.withPc]; exact .stays p off after (by rwa [hφ.mem]) hp
  | jumps off after hs h0 h1 => rw [← hφ.withPc]; exact .jumps off after (by rwa [hφ.mem]) h0 h1
  | returnsFalse after _ hs hr => exact .returnsFalse after _ (by rwa [hφ.mem]) (hr.map hφ)
  | returnsTrue after _ hs hr => exact .returnsTrue after _ (by rwa [hφ.mem]) (hr.map hφ)

theorem Unseen.endOf (hφ : Unseen φ) (i : Instr) (s : State) : endOf i (φ s) = endOf i s := by
  unfold Machine.endOf
  rw [hφ.cur]

theorem exec_map_binary {i : Instr} {f : Word → Word → Word} (hφ : Unseen φ)
    (hi : ∀ s, exec i s = runHandler i (storeBinary f) s) (hn : ¬ FaultOf i s t)
    (hn' : ¬ FaultOf i (φ s) (φ t)) (h : exec i s = .next t) : exec i (φ s) = .next (φ t) := by
  obtain ⟨o1, o2, a, b, s1, s2, s3, ho, h1, h2, hs, rfl⟩ := (execBinary_ok_iff (hi s) rfl hn).1 h
  exact (execBinary_ok_iff (hi _) rfl hn').2 ⟨o1, o2, a, b, _, _, _, ho, h1.map hφ, h2.map hφ,
    hφ.endOf i s ▸ hs.map hφ, by rw [hφ.endOf, hφ.withPc]⟩

theorem exec_map_quotient {i : Instr} {f : Word → Word → Word} (hφ : Unseen φ)
    (hi : ∀ s, exec i s = runHandler i (storeQuotient f) s) (hn : ¬ FaultOf i s t)
    (hn' : ¬ FaultOf i (φ s) (φ t)) (h : exec i s = .next t) : exec i (φ s) = .next (φ t) := by
  obtain ⟨o1, o2, a, b, s1, s2, s3, ho, h1, h2, hb, hs, rfl⟩ := (execQuotient_ok_iff (hi s) rfl hn).1 h
  exact (execQuotient_ok_iff (hi _) rfl hn').2 ⟨o1, o2, a, b, _, _, _, ho, h1.map hφ, h2.map hφ, hb,
    hφ.endOf i s ▸ hs.map hφ, by rw [hφ.endOf, hφ.withPc]⟩

theorem exec_map_link {i : Instr} {link : GameObject → Word} {o : Operand} (hφ : Unseen φ)
    (hi : ∀ s, exec i s = runHandler i (storeLinkAndBranch link) s) (ho : i.shape.operands = [o])
    (hn : ¬ FaultOf i s t) (hn' : ¬ FaultOf i (φ s) (φ t)) (h : exec i s = .next t) :
    exec i (φ s) = .next (φ t) := by
  obtain ⟨n, g, s1, s2, h1, hg, hs, hb⟩ := (execLink_ok_iff (hi s) ho hn).1 h
  exact (execLink_ok_iff (hi _) ho hn').2 ⟨n, g, _, _, h1.map hφ, by rwa [hφ.objs],
    hφ.endOf i s ▸ hs.map hφ, hφ.endOf i s ▸ hb.map hφ⟩

theorem exec_map_writeAttr {i : Instr} {x : Bool} (hφ : Unseen φ)
    (hi : ∀ s, exec i s = runHandler i (writeAttr x) s) (hn : ¬ FaultOf i s t)
    (hn' : ¬ FaultOf i (φ s) (φ t)) (h : exec i s = .next t) : exec i (φ s) = .next (φ t) := by
  obtain ⟨o1, o2, n, a, s1, s2, ho, h1, h2, h3, h4, h5, rfl⟩ := (execWriteAttr_ok_iff (hi s) rfl hn).1 h
  exact (execWriteAttr_ok_iff (hi _) rfl hn').2 ⟨o1, o2, n, a, _, _, ho, h1.map hφ, h2.map hφ, h3,
    by rwa [hφ.objs], h5, by rw [hφ.endOf, hφ.objs, hφ.withObjs, hφ.withPc]⟩

theorem exec_map_call {ops : List Operand} (hφ : Unseen φ) (hn : ¬ FaultOf (.call ops) s t)
    (hn' : ¬ FaultOf (.call ops) (φ s) (φ t)) (h : exec (.call ops) s = .next t) :
    exec (.call ops) (φ s) = .next (φ t) := by
  obtain ⟨o, os, r, args, s1, ho, hl, h1, hc⟩ := (execCall_ok_iff hn).1 h
  refine (execCall_ok_iff hn').2 ⟨o, os, r, args, _, ho, hl, h1.map hφ, ?_⟩
  rw [hφ.endOf]
  obtain ⟨h0, s2, hs, rfl⟩ | ⟨h0, count, ds, hb, hm, hd, hw, rfl⟩ := hc
  · exact .inl ⟨h0, _, hs.map hφ, (hφ.withPc _ _).symm⟩
  · refine .inr ⟨h0, count, ds, by rwa [hφ.mem], hm, by rwa [hφ.params, hφ.callers], by rwa [hφ.mem], ?_⟩
    rw [hφ.withPc, hφ.cur, hφ.callers, hφ.withFrames]

/-- The next state of an instruction that does not fault, under an unseen change: the same instruction
gives the next state so changed. -/
theorem exec_map {i : Instr} (hφ : Unseen φ) (h : exec i s = .next t) (hf : t.faulted = false) :
    exec i (φ s) = .next (φ t) := by
  have hn := not_faultOf (i := i) (s := s) hf
  have hn' : ¬ FaultOf i (φ s) (φ t) := not_faultOf (by rwa [hφ.faulted])
  have he := hφ.endOf i s
  cases i with
  | add form ops => exact exec_map_binary hφ (fun _ => rfl) hn hn' h
  | sub form ops => exact exec_map_binary hφ (fun _ => rfl) hn hn' h
  | div form ops => exact exec_map_quotient hφ (fun _ => rfl) hn hn' h
  | mod form ops => exact exec_map_quotient hφ (fun _ => rfl) hn hn' h
  | getSibling o => exact exec_map_link hφ (fun _ => rfl) rfl hn hn' h
  | getChild o => exact exec_map_link hφ (fun _ => rfl) rfl hn hn' h
  | setAttr form ops => exact exec_map_writeAttr hφ (fun _ => rfl) hn hn' h
  | clearAttr form ops => exact exec_map_writeAttr hφ (fun _ => rfl) hn hn' h
  | getParent o =>
    obtain ⟨n, g, s1, s2, h1, hg, hs, rfl⟩ := (execGetParent_ok_iff hn).1 h
    exact (execGetParent_ok_iff hn').2 ⟨n, g, _, _, h1.map hφ, by rwa [hφ.objs], he ▸ hs.map hφ,
      by rw [he, hφ.withPc]⟩
  | store form ops =>
    obtain ⟨o1, o2, v, x, s1, s2, s3, ho, h1, h2, hw, rfl⟩ := (execStore_ok_iff hn).1 h
    exact (execStore_ok_iff hn').2 ⟨o1, o2, v, x, _, _, _, ho, h1.map hφ, h2.map hφ, hw.map hφ,
      by rw [he, hφ.withPc]⟩
  | inc o =>
    obtain ⟨v, x, s1, s2, s3, h1, h2, hw, rfl⟩ := (execInc_ok_iff hn).1 h
    exact (execInc_ok_iff hn').2 ⟨v, x, _, _, _, h1.map hφ, h2.map hφ, hw.map hφ, by rw [he, hφ.withPc]⟩
  | dec o =>
    obtain ⟨v, x, s1, s2, s3, h1, h2, hw, rfl⟩ := (execDec_ok_iff hn).1 h
    exact (execDec_ok_iff hn').2 ⟨v, x, _, _, _, h1.map hφ, h2.map hφ, hw.map hφ, by rw [he, hφ.withPc]⟩
  | jin form ops =>
    obtain ⟨o1, o2, a, b, g, s1, s2, ho, h1, h2, hg, hb⟩ := (execJin_ok_iff hn).1 h
    exact (execJin_ok_iff hn').2 ⟨o1, o2, a, b, g, _, _, ho, h1.map hφ, h2.map hφ, by rwa [hφ.objs],
      he ▸ hb.map hφ⟩
  | testAttr form ops =>
    obtain ⟨o1, o2, n, a, g, s1, s2, ho, h1, h2, hg, ha, hb⟩ := (execTestAttr_ok_iff hn).1 h
    exact (execTestAttr_ok_iff hn').2 ⟨o1, o2, n, a, g, _, _, ho, h1.map hφ, h2.map hφ,
      by rwa [hφ.objs], ha, he ▸ hb.map hφ⟩
  | insertObj form ops =>
    obtain ⟨o1, o2, o, d, s1, s2, ho, h1, h2, h3, h4, h5, h6, rfl⟩ := (execInsertObj_ok_iff hn).1 h
    exact (execInsertObj_ok_iff hn').2 ⟨o1, o2, o, d, _, _, ho, h1.map hφ, h2.map hφ, h3,
      by rwa [hφ.objs], h5, by rwa [hφ.objs], by rw [he, hφ.objs, hφ.withObjs, hφ.withPc]⟩
  | call ops => exact exec_map_call hφ hn hn' h
  | ret o =>
    obtain ⟨x, s1, h1, hr⟩ := (execRet_ok_iff hn).1 h
    exact (execRet_ok_iff hn').2 ⟨x, _, h1.map hφ, hr.map hφ⟩
  | rtrue => exact (execRtrue_ok_iff hn').2 (((execRtrue_ok_iff hn).1 h).map hφ)
  | rfalse => exact (execRfalse_ok_iff hn').2 (((execRfalse_ok_iff hn).1 h).map hφ)
  | quit =>
    rw [execQuit_eq] at h
    cases h
    rw [execQuit_eq, hφ.cur, hφ.haltNormally]
  | print =>
    obtain ⟨cs, e, hc, rfl⟩ := (execPrint_ok_iff hn).1 h
    exact (execPrint_ok_iff hn').2 ⟨cs, e, by rwa [hφ.mem, he],
      by rw [hφ.abbrevs, hφ.emit, hφ.withPc]⟩
  | printObj o =>
    obtain ⟨n, g, s1, h1, hg, rfl⟩ := (execPrintObj_ok_iff hn).1 h
    exact (execPrintObj_ok_iff hn').2 ⟨n, g, _, h1.map hφ, by rwa [hφ.objs],
      by rw [he, hφ.emit, hφ.withPc]⟩
  | printNum ops =>
    obtain ⟨o, v, s1, ho, h1, rfl⟩ := (execPrintNum_ok_iff hn).1 h
    exact (execPrintNum_ok_iff hn').2 ⟨o, v, _, ho, h1.map hφ, by rw [he, hφ.emit, hφ.withPc]⟩
  | printChar ops =>
    obtain ⟨o, v, s1, ho, h1, rfl⟩ := (execPrintChar_ok_iff hn).1 h
    exact (execPrintChar_ok_iff hn').2 ⟨o, v, _, ho, h1.map hφ, by rw [he, hφ.emit, hφ.withPc]⟩
  | newLine =>
    rw [execNewLine_eq] at h
    cases h
    rw [execNewLine_eq, he, hφ.emit, hφ.withPc]
  | _ => cases h; cases hf

end

/-- Settles O56: the header registers may be changed unseen. -/
theorem headerRegistersAreNeverRead : Obligations.HeaderRegistersAreNeverRead := by
  unfold Obligations.HeaderRegistersAreNeverRead
  intro i s t h he hf
  exact (exec_map (unseen_header h) he hf :)

/-- Settles O57: cell 239 may be changed unseen, so writing back what it holds shows that it is kept. -/
theorem globalCell239IsOutOfReach : Obligations.GlobalCell239IsOutOfReach := by
  unfold Obligations.GlobalCell239IsOutOfReach
  intro i s t x h hf
  refine ⟨?_, (exec_map (unseen_cell239 x) h hf :)⟩
  have ht : exec i (s.withGlobal 239 s.globals[239]) = .next (t.withGlobal 239 s.globals[239]) :=
    (exec_map (unseen_cell239 s.globals[239]) h hf :)
  rw [withGlobal_self, h, Host.Outcome.next.injEq] at ht
  calc t.globals[239]? = (t.withGlobal 239 s.globals[239]).globals[239]? := congrArg (·.globals[239]?) ht
    _ = some s.globals[239] := Vector.getElem?_setIfInBounds_self_of_lt (by decide)
    _ = s.globals[239]? := (Vector.getElem?_eq_getElem (by decide)).symm

end Sys2Proof.Machine
end

section
/-! PROOFS. The variable-number space and the return by cases (spec/10_state.md R34–R36,
spec/43_frames_calls.md R204), and the invariant of the reset state (R33). -/

namespace Sys2Proof.Machine

/-! ## The variable-number space and the return by cases -/

/-- Settles O14: each clause is a case of ReadsVar or of ReadFails, which ReadVar follows. -/
theorem readVarByNumber : Obligations.ReadVarByNumber := by
  unfold Obligations.ReadVarByNumber
  intro s v
  refine ⟨fun h0 hk => ?_, fun x k h0 hk => ?_, fun h1 h2 hl => ?_, fun x h1 h2 hl => ?_,
    fun h1 h2 => ?_, fun h => ?_⟩
  · obtain rfl := toNat_eq_zero_iff.1 h0
    exact readVar_error_of (.underflow s hk)
  · obtain rfl := toNat_eq_zero_iff.1 h0
    exact readVar_ok_iff.2 (.stack s x k hk)
  · exact readVar_error_of (.unset s v h1 h2 hl)
  · exact readVar_ok_iff.2 (.slot s v x h1 h2 hl)
  · have hg : s.globals[v.toNat - 16]? = some s.globals[v.toNat - 16] :=
      Vector.getElem?_eq_getElem (by omega)
    exact ⟨_, hg, readVar_ok_iff.2 (.globalCell s v _ h1 h2 hg)⟩
  · exact readVar_error_of (.index s v h)

/-- Settles O15: each clause is a case of WritesVar or of WriteFails, which WriteVar follows. -/
theorem writeVarByNumber : Obligations.WriteVarByNumber := by
  unfold Obligations.WriteVarByNumber
  intro s v x
  refine ⟨fun h0 hk => ?_, fun h0 hk => ?_, fun h1 h2 => ?_, fun h1 h2 => ?_, fun h => ?_⟩
  · obtain rfl := toNat_eq_zero_iff.1 h0
    exact writeVar_error_of (.overflow s hk)
  · obtain rfl := toNat_eq_zero_iff.1 h0
    exact writeVar_ok_iff.2 (.stack s x hk)
  · refine ⟨_, writeVar_ok_iff.2 (.slot s v x h1 h2), fun j hj => ?_⟩
    rw [Vector.getElem?_setIfInBounds]
    grind
  · refine ⟨_, writeVar_ok_iff.2 (.globalCell s v x h1 h2), fun j hj => ?_⟩
    rw [Vector.getElem?_setIfInBounds]
    grind
  · exact writeVar_error_of (.index s v h)

/-- Settles O19: each clause is a case of Returns or of ReturnFails, which Return follows. -/
theorem returnStoresIntoCaller : Obligations.ReturnStoresIntoCaller := by
  unfold Obligations.ReturnStoresIntoCaller
  intro s x
  refine ⟨returnWith_initial, fun f cs b t hc hb hw => ?_, fun f cs hc hb => ?_, fun f cs b hc hb =>
    ⟨fun h => ?_, fun h hk => ?_⟩⟩
  · exact returnWith_ok_iff.2 ⟨f, cs, t, hc, ⟨b, hb, hw⟩, rfl⟩
  · exact returnWith_error_of (.store f cs _ hc (.unreadable hb))
  · obtain rfl : b = 255 := BitVec.eq_of_toNat_eq h
    exact returnWith_error_of (.store f cs _ hc (.unwritable _ _ hb (.index _ _ (by decide))))
  · obtain rfl : b = 0 := BitVec.eq_of_toNat_eq h
    exact returnWith_error_of (.store f cs _ hc (.unwritable _ _ hb (.overflow _ hk)))

/-! ## Reset -/

/-- Settles O51: the reset state is running with no reason to halt, one frame with an empty stack, and no
object. -/
theorem resetStateHasTheBounds : Obligations.ResetStateHasTheBounds := by
  unfold Obligations.ResetStateHasTheBounds
  have hs : State.reset.statusAgrees := ⟨fun _ => rfl, fun _ => rfl⟩
  have hb : State.reset.bounded := ⟨rfl, by decide, rfl, fun _ _ => rfl⟩
  exact ⟨⟨hs, fun _ => hb⟩, nofun⟩

end Sys2Proof.Machine
end

section
/-! PROOFS. The memory operations by bounds and byte order (spec/20_memory.md R52–R54). -/

namespace Sys2Proof.Machine

/-! ## Byte order -/

theorem wordOfBytes_eq_ofNat (hi lo : Byte) :
    wordOfBytes hi lo = BitVec.ofNat 16 (256 * hi.toNat + lo.toNat) := by
  apply BitVec.eq_of_toNat_eq
  have := hi.isLt
  have := lo.isLt
  rw [wordOfBytes, BitVec.toNat_append, ← Nat.shiftLeft_add_eq_or_of_lt lo.isLt,
    Nat.shiftLeft_eq, BitVec.toNat_ofNat]
  omega

theorem highByte_eq_ofNat (v : Word) : v.extractLsb' 8 8 = BitVec.ofNat 8 (v.toNat / 256) := by
  rw [BitVec.extractLsb', Nat.shiftRight_eq_div_pow]

theorem lowByte_eq_ofNat (v : Word) : v.extractLsb' 0 8 = BitVec.ofNat 8 v.toNat := rfl

/-! ## When a read or a write is refused, and what a write keeps -/

theorem Memory.readByte_of_bounds {m : Memory} {a : Int} (h0 : 0 ≤ a) (hs : a < m.size) :
    ∃ b, m.readByte a = some b :=
  ⟨_, Memory.readByte_some_iff.2 ⟨h0, hs, rfl⟩⟩

theorem Memory.readWord_none_iff {m : Memory} {a : Int} :
    m.readWord a = none ↔ a < 0 ∨ (m.size : Int) ≤ a + 1 := by
  constructor
  · intro h
    by_contra hb
    obtain ⟨hi, h1⟩ := Memory.readByte_of_bounds (m := m) (a := a) (by omega) (by omega)
    obtain ⟨lo, h2⟩ := Memory.readByte_of_bounds (m := m) (a := a + 1) (by omega) (by omega)
    rw [Memory.readWord_some_iff.2 ⟨hi, lo, h1, h2, rfl⟩] at h
    cases h
  · intro h
    by_contra hn
    obtain ⟨w, hw⟩ := Option.ne_none_iff_exists'.1 hn
    have := Memory.readWord_bounds hw
    omega

theorem Memory.writeByte_none_iff {m : Memory} {a : Int} {v : Byte} :
    m.writeByte a v = none ↔ a < 0 ∨ (m.size : Int) ≤ a := by
  unfold Memory.writeByte
  simp only [Memory.has_iff]
  split <;> simp <;> omega

theorem Memory.writeWord_none_iff {m : Memory} {a : Int} {v : Word} :
    m.writeWord a v = none ↔ a < 0 ∨ (m.size : Int) ≤ a + 1 := by
  unfold Memory.writeWord
  simp only [Bool.and_eq_true, Memory.has_iff]
  split <;> simp <;> omega

theorem Memory.writeByte_of_bounds {m : Memory} {a : Int} (v : Byte) (h0 : 0 ≤ a) (hs : a < m.size) :
    ∃ m', m.writeByte a v = some m' ∧ m'.size = m.size :=
  ⟨_, if_pos ((Memory.has_iff m a).2 ⟨h0, hs⟩), rfl⟩

theorem Memory.writeWord_of_bounds {m : Memory} {a : Int} (v : Word) (h0 : 0 ≤ a)
    (hs : a + 1 < m.size) : ∃ m', m.writeWord a v = some m' ∧ m'.size = m.size := by
  have ha : (m.has a && m.has (a + 1)) = true := by
    simp only [Bool.and_eq_true, Memory.has_iff]
    omega
  exact ⟨_, if_pos ha, rfl⟩

theorem memWords_one_error {a : Int} {s : State} (h : s.mem.readWord a = none) :
    memWords 1 a s = .error (.outOfBounds a) s := by
  simp [memWords, Memory.readWords, h]

theorem memWords_one_ok {a : Int} {s : State} {w : Word} (h : s.mem.readWord a = some w) :
    memWords 1 a s = .ok [w] s := by
  simp [memWords, Memory.readWords, h, Except.map]

/-! ## Reads and writes -/

/-- Settles O13: a write is refused exactly outside the image, and a read after it is a case of what
readByte_writeByte and readByte_writeWord say. -/
theorem memWriteWritesOnlyItsBytes : Obligations.MemWriteWritesOnlyItsBytes := by
  unfold Obligations.MemWriteWritesOnlyItsBytes
  intro m a
  refine ⟨fun v => ⟨Memory.writeByte_none_iff.2, fun h0 hs => ?_⟩,
    fun v => ⟨Memory.writeWord_none_iff.2, fun h0 hs => ?_⟩⟩
  · obtain ⟨m', hw, hm⟩ := Memory.writeByte_of_bounds v h0 hs
    have hr := Memory.readByte_writeByte hw
    exact ⟨m', hw, hm, by rw [hr, if_pos rfl], fun b hb => by rw [hr, if_neg hb]⟩
  · obtain ⟨m', hw, hm⟩ := Memory.writeWord_of_bounds v h0 hs
    have hr := Memory.readByte_writeWord hw
    rw [highByte_eq_ofNat, lowByte_eq_ofNat] at hr
    exact ⟨m', hw, hm, by rw [hr, if_pos rfl],
      by rw [hr, if_neg (by omega), if_pos rfl], fun b hb hb1 => by rw [hr, if_neg hb, if_neg hb1]⟩

/-- Settles O12: the bounds are where readByte and readWord answer nothing, and the byte order is
wordOfBytes's. -/
theorem memoryReadsAreBoundedAndBigEndian : Obligations.MemoryReadsAreBoundedAndBigEndian := by
  unfold Obligations.MemoryReadsAreBoundedAndBigEndian
  intro s a
  refine ⟨fun h => memByte_error (Memory.readByte_none_iff.2 h), fun h0 hs => ?_,
    fun h => memWords_one_error (Memory.readWord_none_iff.2 h), fun hi lo h1 h2 => ?_⟩
  · obtain ⟨b, hb⟩ := Memory.readByte_of_bounds h0 hs
    exact ⟨b, hb, memByte_ok_iff.2 ⟨hb, rfl⟩⟩
  · rw [← wordOfBytes_eq_ofNat]
    exact memWords_one_ok (Memory.readWord_some_iff.2 ⟨hi, lo, h1, h2, rfl⟩)

end Sys2Proof.Machine
end

section
/-! PROOFS. Decoding and encoding (spec/30_encoding.md R70–R77, R82–R84, spec/40_decode_dispatch.md R101,
R102). Every decode has one course: the opcode byte, with the types byte after it if its form has one, gives
the type fields; the fields fetch the operands; the opcode byte and the operands give the key. Layout and
decode_of_layout say this once for all forms. -/

namespace Sys2Proof

open Laws
open Laws.KeyTable (ofShape fits wfShape)

/-! ## Operands -/

theorem bytes_large (hi lo : Byte) : (Operand.large (wordOfBytes hi lo)).bytes = [hi, lo] := by
  unfold Operand.bytes wordOfBytes
  simp only [BitVec.extractLsb'_append_eq_left, BitVec.extractLsb'_append_eq_right]

theorem kind_ne_omitted_iff {o : Operand} : o.kind ≠ .omitted ↔ o.isPresent = true := by
  refine ⟨fun h => ?_, kind_ne_omitted⟩
  cases o with
  | omitted => exact absurd rfl h
  | large | small | var => rfl

/-- An operand is fetched exactly from its own bytes, under its own type. -/
theorem fetchOperand_some_iff {t : OpType} {bs rest : List Byte} {o : Operand} :
    fetchOperand t bs = some (o, rest) ↔ o.kind = t ∧ bs = o.bytes ++ rest := by
  constructor
  · intro h
    fun_cases fetchOperand t bs <;> cases h
    · exact ⟨rfl, by rw [bytes_large]; rfl⟩
    · exact ⟨rfl, rfl⟩
    · exact ⟨rfl, rfl⟩
    · exact ⟨rfl, rfl⟩
  · rintro ⟨rfl, rfl⟩
    exact fetchOperand_bytes o rest

theorem fetchOperand_of_length {t : OpType} {bs : List Byte} (h : t.size ≤ bs.length) :
    ∃ o rest, fetchOperand t bs = some (o, rest) ∧ rest.length = bs.length - t.size := by
  fun_cases fetchOperand t bs <;> simp [OpType.size] at h ⊢

/-- The type fields that ask for an operand: those before the first Omitted (R75). -/
def askedFields (ts : List OpType) : List OpType := ts.takeWhile fun t => decide (t ≠ .omitted)

theorem askedFields_cons {t : OpType} (ts : List OpType) (h : t ≠ .omitted) :
    askedFields (t :: ts) = t :: askedFields ts :=
  List.takeWhile_cons_of_pos (decide_eq_true h)

theorem askedFields_kinds_append {ops : List Operand} (pad : List OpType)
    (h : ∀ o ∈ ops, o.isPresent = true) :
    askedFields (ops.map Operand.kind ++ pad) = ops.map Operand.kind ++ askedFields pad := by
  induction ops with
  | nil => rfl
  | cons o os ih =>
    obtain ⟨ho, hos⟩ := List.forall_mem_cons.1 h
    rw [List.map_cons, List.cons_append, askedFields_cons _ (kind_ne_omitted ho), ih hos,
      List.cons_append]

theorem askedFields_kinds {ops : List Operand} (h : ∀ o ∈ ops, o.isPresent = true) :
    askedFields (ops.map Operand.kind) = ops.map Operand.kind := by
  simpa [askedFields] using askedFields_kinds_append [] h

theorem isPresent_of_asked {ts : List OpType} {ops : List Operand}
    (h : askedFields ts = ops.map Operand.kind) : ∀ o ∈ ops, o.isPresent = true := by
  intro o ho
  have hm : o.kind ∈ askedFields ts := h ▸ List.mem_map_of_mem ho
  have hp := List.mem_takeWhile_imp (p := fun t => decide (t ≠ OpType.omitted)) hm
  exact kind_ne_omitted_iff.1 (of_decide_eq_true hp)

/-- The fetch uses the asked fields only (R75). -/
theorem fetchOperands_askedFields (ts : List OpType) (p : Nat) (bs : List Byte) :
    fetchOperands (askedFields ts) p bs = fetchOperands ts p bs := by
  induction ts generalizing p bs with
  | nil => rfl
  | cons t ts ih =>
    by_cases ht : t = .omitted
    · subst ht; rfl
    · rw [askedFields_cons _ ht]
      simp only [fetchOperands, ih]

/-- The operands fetched are those of the asked types whose bytes stand at the front. -/
theorem fetchOperands_ok_iff {ts : List OpType} {p : Nat} {bs : List Byte} {ops : List Operand} :
    fetchOperands ts p bs = .ok ops ↔
      askedFields ts = ops.map Operand.kind ∧ ∃ rest, bs = ops.flatMap Operand.bytes ++ rest := by
  constructor
  · intro h
    induction ts generalizing p bs ops with
    | nil => cases h; exact ⟨rfl, bs, rfl⟩
    | cons t ts ih =>
      by_cases ht : t = .omitted
      · subst ht; cases h; exact ⟨rfl, bs, rfl⟩
      · rw [fetchOperands, if_neg ht] at h
        split at h
        · cases h
        · next o rest ho =>
          obtain ⟨rfl, rfl⟩ := fetchOperand_some_iff.1 ho
          cases hr : fetchOperands ts (p + o.kind.size) rest with
          | error e => rw [hr] at h; cases h
          | ok os =>
            rw [hr] at h
            cases h
            obtain ⟨hk, more, rfl⟩ := ih hr
            exact ⟨by rw [askedFields_cons _ ht, hk]; rfl, more, by simp⟩
  · rintro ⟨hk, rest, rfl⟩
    rw [← fetchOperands_askedFields, hk, ← List.append_nil (ops.map _)]
    exact fetchOperands_bytes p rest (isPresent_of_asked hk) rfl

/-- When enough bytes are left, the fields' operands are fetched. -/
theorem fetchOperands_of_length {ts : List OpType} {bs : List Byte} (p : Nat)
    (h : (ts.map OpType.size).sum ≤ bs.length) : ∃ ops, fetchOperands ts p bs = .ok ops := by
  induction ts generalizing p bs with
  | nil => exact ⟨[], rfl⟩
  | cons t ts ih =>
    rw [List.map_cons, List.sum_cons] at h
    rw [fetchOperands]
    split
    · exact ⟨[], rfl⟩
    · obtain ⟨o, rest, ho, hl⟩ := fetchOperand_of_length (t := t) (bs := bs) (by omega)
      obtain ⟨os, hos⟩ := ih (bs := rest) (p + t.size) (by omega)
      exact ⟨o :: os, by simp only [ho, hos]; rfl⟩

/-! ## The key table, from the key -/

/-- The key of the table's entry is the key that was looked up (R78, R83, R84). -/
theorem shape_ofShape {sh : Shape} (h : fits sh = true) : (ofShape sh).shape = sh := by
  cases sh with
  | extended => rfl
  | two n | vari n =>
    obtain ⟨⟨k, hk⟩⟩ := n
    change k < 32 at hk
    interval_cases k <;> rfl
  | one n op =>
    obtain ⟨⟨k, hk⟩⟩ := n
    have hf : k < 16 := of_decide_eq_true h
    interval_cases k <;> rfl
  | zero n =>
    revert n
    decide +kernel

/-- An entry of the table is well formed as its form says. -/
theorem wf_ofShape {sh : Shape} (h : fits sh = true) : (ofShape sh).wf = wfShape sh := by
  obtain ⟨-, -, hwf⟩ := KeyTable.all (ofShape sh)
  rw [hwf, shape_ofShape h]

/-! ## The course of a decode -/

/-- For an opcode byte: the types byte after it if its form has one, the type fields the two give (R70–R75),
and the key and form they give the fetched operands (R78). -/
inductive Layout (b : Byte) : List Byte → List OpType → (List Operand → Shape) → Prop where
  | extended : opcodeForm b = .extended → Layout b [] [] fun _ => .extended
  | long : opcodeForm b = .long →
      Layout b [] [longType (b.getLsbD 6), longType (b.getLsbD 5)] (.two (b.extractLsb' 0 5) .long)
  | zero : opcodeForm b = .short .omitted →
      Layout b [] [] fun _ => .zero ((b.extractLsb' 0 4).setWidth 5)
  | one (t : OpType) : t ≠ .omitted → opcodeForm b = .short t →
      Layout b [] [t] fun ops => .one ((b.extractLsb' 0 4).setWidth 5) (ops.getD 0 .omitted)
  | variable2OP (tb : Byte) : opcodeForm b = .variable2OP →
      Layout b [tb] (typeFields tb) (.two (b.extractLsb' 0 5) .vari)
  | variableVAR (tb : Byte) : opcodeForm b = .variableVAR →
      Layout b [tb] (typeFields tb) (.vari (b.extractLsb' 0 5))

/-- The decoder follows the layout, whatever the operand bytes are. -/
theorem decode_of_layout {b : Byte} {hd : List Byte} {ts : List OpType} {f : List Operand → Shape}
    (h : Layout b hd ts f) (bs : List Byte) :
    decode (b :: (hd ++ bs)) =
      (fetchOperands ts (1 + hd.length) bs).map fun ops => ofShape (f ops) := by
  cases h with
  | extended hf | long hf | zero hf | variable2OP _ hf | variableVAR _ hf =>
    simp only [decode, hf]; rfl
  | one t ht hf =>
    cases t with
    | omitted => exact absurd rfl ht
    | _ =>
      simp only [decode, hf, fetchOperands, if_neg ht, List.nil_append]
      cases fetchOperand _ bs <;> rfl

/-- Every opcode byte has a layout with the bytes after it, unless its types byte is missing. -/
theorem exists_layout (b : Byte) (rest : List Byte) :
    (∃ hd more ts f, rest = hd ++ more ∧ Layout b hd ts f) ∨
      rest = [] ∧ decode [b] = .error (.truncated 1) := by
  cases hf : opcodeForm b with
  | extended => exact .inl ⟨[], rest, _, _, rfl, .extended hf⟩
  | long => exact .inl ⟨[], rest, _, _, rfl, .long hf⟩
  | short t =>
    by_cases ht : t = .omitted
    · exact .inl ⟨[], rest, _, _, rfl, .zero (ht ▸ hf)⟩
    · exact .inl ⟨[], rest, _, _, rfl, .one t ht hf⟩
  | variable2OP =>
    cases rest with
    | nil => exact .inr ⟨rfl, by simp only [decode, hf]⟩
    | cons tb more => exact .inl ⟨[tb], more, _, _, rfl, .variable2OP tb hf⟩
  | variableVAR =>
    cases rest with
    | nil => exact .inr ⟨rfl, by simp only [decode, hf]⟩
    | cons tb more => exact .inl ⟨[tb], more, _, _, rfl, .variableVAR tb hf⟩

/-- A decode answers exactly the key of a layout at the front whose fields ask for the operands that follow. -/
theorem decode_ok_iff {bs : List Byte} {i : Instr} :
    decode bs = .ok i ↔ ∃ b hd ts f ops more, Layout b hd ts f ∧
      bs = b :: (hd ++ (ops.flatMap Operand.bytes ++ more)) ∧
      askedFields ts = ops.map Operand.kind ∧ i = ofShape (f ops) := by
  constructor
  · intro h
    cases bs with
    | nil => cases h
    | cons b rest =>
      obtain ⟨hd, more, ts, f, rfl, hl⟩ | ⟨rfl, he⟩ := exists_layout b rest
      · rw [decode_of_layout hl] at h
        cases ho : fetchOperands ts (1 + hd.length) more with
        | error e => rw [ho] at h; cases h
        | ok ops =>
          rw [ho] at h
          cases h
          obtain ⟨hk, more, rfl⟩ := fetchOperands_ok_iff.1 ho
          exact ⟨b, hd, ts, f, ops, more, hl, rfl, hk, rfl⟩
      · rw [he] at h; cases h
  · rintro ⟨b, hd, ts, f, ops, more, hl, rfl, hk, rfl⟩
    rw [decode_of_layout hl, fetchOperands_ok_iff.2 ⟨hk, more, rfl⟩]
    rfl

/-- Layouts that differ in the fields not asked for only decode alike. -/
theorem decode_congr_asked {b : Byte} {hd hd' : List Byte} {ts ts' : List OpType}
    {f : List Operand → Shape} (h : Layout b hd ts f) (h' : Layout b hd' ts' f)
    (hl : hd.length = hd'.length) (ha : askedFields ts = askedFields ts') (bs : List Byte) :
    decode (b :: (hd ++ bs)) = decode (b :: (hd' ++ bs)) := by
  rw [decode_of_layout h, decode_of_layout h', ← fetchOperands_askedFields ts, ha, hl,
    fetchOperands_askedFields]

/-! ## What a layout gives -/

theorem longType_ne_omitted (x : Bool) : longType x ≠ .omitted := by cases x <;> decide

theorem isOneByte_of_longType {o : Operand} {x : Bool} (h : o.kind = longType x) : o.isOneByte = true := by
  cases o with
  | small | var => rfl
  | large | omitted => cases x <;> cases h

theorem askedFields_length_le (ts : List OpType) : (askedFields ts).length ≤ ts.length :=
  (List.takeWhile_sublist _).length_le

theorem wfVariable_of_asked {tb : Byte} {ops : List Operand}
    (h : askedFields (typeFields tb) = ops.map Operand.kind) : wfVariable ops = true := by
  have hl : (ops.map Operand.kind).length ≤ 4 := h ▸ askedFields_length_le (typeFields tb)
  rw [List.length_map] at hl
  simpa [wfVariable, hl] using isPresent_of_asked h

/-- The short form's number has four bits, and 0xBE is tested before the short form (R71, R74). -/
theorem fits_zero_of_short {b : Byte} (h : opcodeForm b = .short .omitted) :
    fits (.zero ((b.extractLsb' 0 4).setWidth 5)) = true := by
  decide +kernel +revert

theorem fits_one (b : Byte) (op : Operand) : fits (.one ((b.extractLsb' 0 4).setWidth 5) op) = true := by
  refine decide_eq_true ?_
  rw [BitVec.toNat_setWidth_of_le (by decide)]
  exact BitVec.isLt _

/-- The operands a layout asks for make a key with these operands that its form can hold and that is well
formed; the key has a types byte where the layout has one. -/
theorem Layout.gives {b : Byte} {hd : List Byte} {ts : List OpType} {f : List Operand → Shape}
    {ops : List Operand} (h : Layout b hd ts f) (ho : askedFields ts = ops.map Operand.kind) :
    fits (f ops) = true ∧ wfShape (f ops) = true ∧ (f ops).operands = ops ∧
      (f ops).types.length = hd.length := by
  cases h with
  | extended hf =>
    obtain rfl := List.map_eq_nil_iff.1 ho.symm
    exact ⟨rfl, rfl, rfl, rfl⟩
  | zero hf =>
    obtain rfl := List.map_eq_nil_iff.1 ho.symm
    exact ⟨fits_zero_of_short hf, rfl, rfl, rfl⟩
  | long hf =>
    rw [askedFields_cons _ (longType_ne_omitted _), askedFields_cons _ (longType_ne_omitted _)] at ho
    obtain ⟨o1, os, rfl, h1, hos⟩ := List.map_eq_cons_iff.1 ho.symm
    obtain ⟨o2, rfl, h2⟩ := List.map_eq_singleton_iff.1 hos
    have hw : wf2OP .long [o1, o2] = true := by
      simp [wf2OP, isOneByte_of_longType h1, isOneByte_of_longType h2]
    exact ⟨rfl, hw, rfl, rfl⟩
  | one t ht hf =>
    rw [askedFields_cons _ ht] at ho
    obtain ⟨o, rfl, rfl⟩ := List.map_eq_singleton_iff.1 ho.symm
    exact ⟨fits_one b o, kind_ne_omitted_iff.1 ht, rfl, rfl⟩
  | variable2OP tb hf => exact ⟨rfl, wfVariable_of_asked ho, rfl, rfl⟩
  | variableVAR tb hf => exact ⟨rfl, wfVariable_of_asked ho, rfl, rfl⟩

theorem longType_size (x : Bool) : (longType x).size = 1 := by cases x <;> rfl

/-- No instruction is longer than the ten bytes of R102. -/
theorem Layout.size_le {b : Byte} {hd : List Byte} {ts : List OpType} {f : List Operand → Shape}
    (h : Layout b hd ts f) : hd.length + (ts.map OpType.size).sum ≤ 9 := by
  cases h with
  | extended | zero => decide
  | long => simp [longType_size]
  | one t =>
    have := Machine.opType_size_le t
    simp only [List.length_nil, List.map_cons, List.map_nil, List.sum_cons, List.sum_nil]
    omega
  | variable2OP tb | variableVAR tb =>
    have := Machine.typeFields_size_le tb
    simp only [List.length_singleton]
    omega

/-! ## What the encoder writes -/

theorem askedFields_typesByte {ops : List Operand} (h : wfVariable ops = true) :
    askedFields (typeFields (typesByte ops)) = ops.map Operand.kind := by
  simp only [wfVariable, Bool.and_eq_true, decide_eq_true_eq, List.all_eq_true] at h
  obtain ⟨hl, hp⟩ := h
  obtain ⟨pad, ht, hpad⟩ := typeFields_typesByte hl
  rw [ht, askedFields_kinds_append pad hp]
  cases pad with
  | nil => exact List.append_nil _
  | cons t pad => obtain rfl : t = .omitted := hpad; exact List.append_nil _

/-- The 0OP opcode byte is the short form's with the type Omitted (R74). -/
theorem opbyte_zero (n : BitVec 5) : (Shape.zero n).opbyte = 0b10#2 ++ 3#2 ++ n.setWidth 4 :=
  congrArg (· ++ n.setWidth 4) (show 0b1011#4 = 0b10#2 ++ 3#2 by decide)

/-- The number in the low four bits of a short form's opcode byte (R74). -/
theorem opbyte_short_number {t : BitVec 2} {n : BitVec 5} (hn : n.toNat < 16)
    (h : ¬ (t = 3 ∧ n.toNat = 14)) :
    ((0b10#2 ++ t ++ n.setWidth 4 : Byte).extractLsb' 0 4).setWidth 5 = n := by
  apply BitVec.eq_of_toNat_eq
  rw [BitVec.toNat_setWidth_of_le (by decide), (opcode_short t n hn h).2]

/-- Every well-formed key that its form can hold has a layout, which gives the key back. -/
theorem exists_layout_of_shape {sh : Shape} (hf : fits sh = true) (hw : wfShape sh = true) :
    ∃ ts f, Layout sh.opbyte sh.types ts f ∧ f sh.operands = sh ∧
      askedFields ts = sh.operands.map Operand.kind := by
  cases sh with
  | extended => exact ⟨_, _, .extended rfl, rfl, rfl⟩
  | vari n ops =>
    obtain ⟨hb, hn⟩ := opcode_variableVAR n
    exact ⟨_, _, .variableVAR (typesByte ops) hb, congrArg (Shape.vari · ops) hn, askedFields_typesByte hw⟩
  | two n form ops =>
    cases form with
    | vari =>
      obtain ⟨hb, hn⟩ := opcode_variable2OP n
      exact ⟨_, _, .variable2OP (typesByte ops) hb, congrArg (Shape.two · .vari ops) hn,
        askedFields_typesByte hw⟩
    | long =>
      simp only [wfShape, wf2OP, Bool.and_eq_true, decide_eq_true_eq, List.all_eq_true] at hw
      obtain ⟨hl, ho⟩ := hw
      obtain ⟨o1, o2, rfl⟩ := List.length_eq_two.1 hl
      obtain ⟨hb, hn, ht⟩ := opcode_long o1.longBit o2.longBit n
      obtain ⟨hk1, hp1⟩ := longType_longBit (ho o1 (by simp))
      obtain ⟨hk2, hp2⟩ := longType_longBit (ho o2 (by simp))
      rw [hk1, hk2] at ht
      exact ⟨_, _, .long hb, congrArg (Shape.two · .long [o1, o2]) hn,
        (congrArg askedFields ht).trans (askedFields_kinds (ops := [o1, o2]) (by simp [hp1, hp2]))⟩
  | one n op =>
    have hn : n.toNat < 16 := of_decide_eq_true hf
    have ht : ¬ (op.typeCode = 3 ∧ n.toNat = 14) :=
      fun h => kind_ne_omitted hw (congrArg opType h.1)
    exact ⟨_, _, .one op.kind (kind_ne_omitted hw) (opcode_short op.typeCode n hn ht).1,
      congrArg (Shape.one · op) (opbyte_short_number hn ht), askedFields_cons [] (kind_ne_omitted hw)⟩
  | zero n =>
    simp only [fits, Bool.and_eq_true, decide_eq_true_eq] at hf
    obtain ⟨hn, h14⟩ := hf
    have ht : ¬ (3#2 = 3 ∧ n.toNat = 14) := fun h => h14 h.2
    rw [opbyte_zero]
    exact ⟨_, _, .zero (opcode_short 3 n hn ht).1, congrArg Shape.zero (opbyte_short_number hn ht), rfl⟩

theorem size_eq_length (i : Instr) :
    i.size = 1 + i.shape.types.length + (i.shape.operands.flatMap Operand.bytes).length := by
  rw [List.length_flatMap]; rfl

theorem encode_length (i : Instr) : (encode i).length = i.size := by
  rw [encode, List.length_cons, List.length_append, size_eq_length]
  omega

theorem opbyte_long_lt (x y : BitVec 1) (n : BitVec 5) : ¬ 0xC0 ≤ (0#1 ++ x ++ y ++ n : Byte).toNat := by
  decide +kernel +revert

theorem opbyte_short_lt (t : BitVec 2) (n : BitVec 4) : ¬ 0xC0 ≤ (0b10#2 ++ t ++ n : Byte).toNat := by
  decide +kernel +revert

theorem opbyte_variable2OP_ge (n : BitVec 5) : 0xC0 ≤ (0b110#3 ++ n : Byte).toNat := by
  decide +kernel +revert

theorem opbyte_variableVAR_ge (n : BitVec 5) : 0xC0 ≤ (0b111#3 ++ n : Byte).toNat := by
  decide +kernel +revert

/-- The variable form's opcode bytes, and no other, are 0xC0 and up (R71). -/
theorem types_length (sh : Shape) : sh.types.length = if 0xC0 ≤ sh.opbyte.toNat then 1 else 0 := by
  cases sh with
  | extended => rfl
  | two n form ops =>
    cases form with
    | long => exact (if_neg (opbyte_long_lt _ _ n)).symm
    | vari => exact (if_pos (opbyte_variable2OP_ge n)).symm
  | vari n ops => exact (if_pos (opbyte_variableVAR_ge n)).symm
  | one n op => exact (if_neg (opbyte_short_lt _ _)).symm
  | zero n => rw [opbyte_zero]; exact (if_neg (opbyte_short_lt _ _)).symm

/-! ## The tests of the opcode byte (R71) -/

theorem opType_omitted_iff {c : BitVec 2} : opType c = .omitted ↔ c.toNat = 3 := by
  decide +revert

/-- The two type bits of a short form's opcode byte (R71, R74). -/
theorem shortType_omitted_iff (b : Byte) :
    opType (b.extractLsb' 4 2) = .omitted ↔ b.toNat / 16 % 4 = 3 := by
  rw [opType_omitted_iff, BitVec.extractLsb'_toNat, Nat.shiftRight_eq_div_pow]

theorem opcodeForm_of_variable {b : Byte} (he : b ≠ 0xBE) (h : 0xC0 ≤ b.toNat) :
    opcodeForm b = if b.getLsbD 5 then .variableVAR else .variable2OP := by
  rw [opcodeForm, if_neg he, if_pos h]

theorem opcodeForm_of_short {b : Byte} (he : b ≠ 0xBE) (h : 0x80 ≤ b.toNat) (hc : b.toNat < 0xC0) :
    opcodeForm b = .short (opType (b.extractLsb' 4 2)) := by
  rw [opcodeForm, if_neg he, if_neg (by omega), if_pos h]

theorem opcodeForm_of_long {b : Byte} (h : b.toNat < 0x80) : opcodeForm b = .long := by
  have he : b ≠ 0xBE := by rintro rfl; exact absurd h (by decide)
  rw [opcodeForm, if_neg he, if_neg (by omega), if_neg (by omega)]

theorem opcodeClass_of_short {b : Byte} {t : OpType} (ht : t ≠ .omitted) (h : opcodeForm b = .short t) :
    opcodeClass b = .op1 := by
  cases t with
  | omitted => exact absurd rfl ht
  | largeConst | smallConst | varRef => rw [opcodeClass, h]

/-! ## The statements -/

/-- Settles O1: the key of a well-formed instruction has a layout, which the decoder follows. -/
theorem decodeOfEncodeIsIdentity : Obligations.DecodeOfEncodeIsIdentity := by
  unfold Obligations.DecodeOfEncodeIsIdentity
  intro i rest hwf
  obtain ⟨hi, hf, hw⟩ := KeyTable.all i
  obtain ⟨ts, f, hl, hs, hk⟩ := exists_layout_of_shape hf (hw ▸ hwf)
  refine decode_ok_iff.2 ⟨i.shape.opbyte, i.shape.types, ts, f, i.shape.operands, rest, hl, ?_, hk, ?_⟩
  · rw [encode, List.cons_append, List.append_assoc]
  · rw [hs, hi]

/-- Settles O2: the size is the encoding's length, and only the variable form has a types byte. -/
theorem endAddressCountsEncodedBytes : Obligations.EndAddressCountsEncodedBytes := by
  unfold Obligations.EndAddressCountsEncodedBytes
  intro i a
  rw [encode_length, ← types_length]
  exact ⟨rfl, rfl⟩

/-- Settles O5: ten bytes hold any layout and its operands. -/
theorem tenBytesDecodeWellFormed : Obligations.TenBytesDecodeWellFormed := by
  unfold Obligations.TenBytesDecodeWellFormed
  intro bs h
  cases bs with
  | nil => simp at h
  | cons b rest =>
    rw [List.length_cons] at h
    obtain ⟨hd, more, ts, f, rfl, hl⟩ | ⟨rfl, -⟩ := exists_layout b rest
    · have hs := hl.size_le
      rw [List.length_append] at h
      obtain ⟨ops, ho⟩ := fetchOperands_of_length (ts := ts) (bs := more) (1 + hd.length) (by omega)
      obtain ⟨hf, hw, -, -⟩ := hl.gives (fetchOperands_ok_iff.1 ho).1
      exact ⟨ofShape (f ops), by rw [decode_of_layout hl, ho]; rfl, (wf_ofShape hf).trans hw⟩
    · simp at h

/-- Settles O6: the layout and its operands' bytes are the front of the bytes, and are all that the size
counts. -/
theorem decodeReadsOnlyItsOwnBytes : Obligations.DecodeReadsOnlyItsOwnBytes := by
  unfold Obligations.DecodeReadsOnlyItsOwnBytes
  intro bs rest i h
  obtain ⟨b, hd, ts, f, ops, more, hl, rfl, hk, rfl⟩ := decode_ok_iff.1 h
  obtain ⟨hf, -, ho, ht⟩ := hl.gives hk
  have hs : (ofShape (f ops)).size = (b :: (hd ++ ops.flatMap Operand.bytes)).length := by
    rw [size_eq_length, shape_ofShape hf, ho, ht, List.length_cons, List.length_append]
    omega
  have hb : b :: (hd ++ (ops.flatMap Operand.bytes ++ more)) =
      b :: (hd ++ ops.flatMap Operand.bytes) ++ more := by simp
  refine ⟨by rw [hs, hb, List.length_append]; omega, ?_⟩
  rw [hs, hb, List.take_left]
  exact decode_ok_iff.2 ⟨b, hd, ts, f, ops, rest, hl, by simp, hk, rfl⟩

/-- Settles O7: the two types bytes ask for the same fields. -/
theorem fieldsAfterOmittedAreIgnored : Obligations.FieldsAfterOmittedAreIgnored := by
  unfold Obligations.FieldsAfterOmittedAreIgnored
  intro b tb tb' rest hb ha
  rcases Machine.opcodeForm_variable hb with hf | hf
  · exact decode_congr_asked (.variable2OP tb hf) (.variable2OP tb' hf) rfl ha rest
  · exact decode_congr_asked (.variableVAR tb hf) (.variableVAR tb' hf) rfl ha rest

/-- Settles O4: each clause is one outcome of opcodeForm's tests. -/
theorem opcodeByteSelectsFormAndClass : Obligations.OpcodeByteSelectsFormAndClass := by
  unfold Obligations.OpcodeByteSelectsFormAndClass
  intro b
  refine ⟨?_, fun he hc h5 => ?_, fun he hc h5 => ?_, fun he h8 hc ht => ?_, fun he h8 hc ht => ?_,
    fun h => ?_⟩
  · rintro rfl
    exact ⟨rfl, rfl⟩
  · have hf := opcodeForm_of_variable he hc
    rw [h5, if_pos rfl] at hf
    exact ⟨hf, by rw [opcodeClass, hf]⟩
  · have hf := opcodeForm_of_variable he hc
    rw [h5, if_neg Bool.false_ne_true] at hf
    exact ⟨hf, by rw [opcodeClass, hf]⟩
  · have hf := opcodeForm_of_short he h8 hc
    rw [(shortType_omitted_iff b).2 ht] at hf
    exact ⟨hf, by rw [opcodeClass, hf]⟩
  · have hf := opcodeForm_of_short he h8 hc
    have hn := mt (shortType_omitted_iff b).1 ht
    exact ⟨⟨_, hn, hf⟩, opcodeClass_of_short hn hf⟩
  · have hf := opcodeForm_of_long h
    exact ⟨hf, by rw [opcodeClass, hf]⟩

end Sys2Proof
end

section
/-! PROOFS. The keys without a handler (spec/30_encoding.md R76, R84, spec/40_decode_dispatch.md R101, R103)
and the wrong operand counts (R85, R104). -/

namespace Sys2Proof.Machine

theorem raiseUnimplemented_takesFault (i : Instr) (s : State) :
    TakesFault (raiseUnimplemented i s) i s .unimplementedOpcode :=
  runHandler_of_error (raise_apply _ s)

theorem execExtendedForm_takesFault (s : State) :
    TakesFault (execExtendedForm s) .extendedForm s .decodeError :=
  runHandler_of_error (raise_apply _ s)

/-- A key of R84 is answered by raiseUnimplemented: the cases named are the keys H and the extended form. -/
theorem exec_unimplemented {i : Instr} {s : State} {n : BitVec 5} (hn : i.shape.number = some n)
    (hk : unimplementedKey i.shape.cls n.toNat = true) : exec i s = raiseUnimplemented i s := by
  cases i
  case jin | testAttr | setAttr | clearAttr | store | insertObj | add | sub | div | mod | getSibling |
      getChild | getParent | inc | dec | printObj | ret | rtrue | rfalse | print | quit | newLine | call |
      printChar | printNum => cases hn; cases hk
  case extendedForm => cases hn
  all_goals rfl

/-- Settles O41: each key of R84 raises at once, and so does the extended form. -/
theorem opcodesWithoutHandlerFault : Obligations.OpcodesWithoutHandlerFault := by
  unfold Obligations.OpcodesWithoutHandlerFault
  constructor
  · intro i s n hn hk
    rw [exec_unimplemented hn hk]
    exact raiseUnimplemented_takesFault i s
  · intro s
    exact ⟨execExtendedForm_takesFault s, rfl, rfl, rfl⟩

/-- The instruction's handler begins with an action on the decoded record, as with the check of the operand
count (R104). -/
def BeginsWith {α : Type} (m : Inst → Act α) (i : Instr) : Prop :=
  ∃ f : Inst → α → Act Unit, ∀ s, exec i s = runHandler i (fun inst => andThen (m inst) (f inst)) s

/-- A fault of the action a handler begins with is the instruction's fault. -/
theorem BeginsWith.takesFault {α : Type} {m : Inst → Act α} {i : Instr} {s t : State} {k : FaultKind}
    (h : BeginsWith m i) (hm : m (i.inst s.cur.pc) s = .error k t) : TakesFault (exec i s) i s k := by
  obtain ⟨f, hf⟩ := h
  rw [hf]
  exact runHandler_of_error (act_andThen_error hm)

theorem twoOperandHandlers_begin (form : Form2OP) (ops : List Operand) :
    ∀ i ∈ [Instr.jin form ops, .testAttr form ops, .setAttr form ops, .clearAttr form ops, .store form ops,
      .insertObj form ops, .add form ops, .sub form ops, .div form ops, .mod form ops],
      BeginsWith operands2 i ∧ i.shape.operands = ops := by
  intro i hi
  simp only [List.mem_cons, List.not_mem_nil, or_false] at hi
  rcases hi with rfl | rfl | rfl | rfl | rfl | rfl | rfl | rfl | rfl | rfl
  · exact ⟨⟨_, fun s => by rw [exec, execJin]⟩, rfl⟩
  · exact ⟨⟨_, fun s => by rw [exec, execTestAttr]⟩, rfl⟩
  · exact ⟨⟨_, fun s => by rw [exec, execSetAttr]; rfl⟩, rfl⟩
  · exact ⟨⟨_, fun s => by rw [exec, execClearAttr]; rfl⟩, rfl⟩
  · exact ⟨⟨_, fun s => by rw [exec, execStore]⟩, rfl⟩
  · exact ⟨⟨_, fun s => by rw [exec, execInsertObj]⟩, rfl⟩
  · exact ⟨⟨_, fun s => by rw [exec, execAdd]; rfl⟩, rfl⟩
  · exact ⟨⟨_, fun s => by rw [exec, execSub]; rfl⟩, rfl⟩
  · exact ⟨⟨_, fun s => by rw [exec, execDiv]; rfl⟩, rfl⟩
  · exact ⟨⟨_, fun s => by rw [exec, execMod]; rfl⟩, rfl⟩

theorem printChar_begins (ops : List Operand) : BeginsWith operand1 (.printChar ops) :=
  ⟨_, fun s => by rw [exec, execPrintChar]⟩

theorem printNum_begins (ops : List Operand) : BeginsWith operand1 (.printNum ops) :=
  ⟨_, fun s => by rw [exec, execPrintNum]⟩

theorem call_begins (ops : List Operand) : BeginsWith operandsCall (.call ops) :=
  ⟨_, fun s => by rw [exec, execCall]⟩

/-- Settles O42: every one of these handlers begins with the check of the operand count. -/
theorem wrongOperandCountFaults : Obligations.WrongOperandCountFaults := by
  unfold Obligations.WrongOperandCountFaults
  intro form ops s
  refine ⟨fun hl i hi => ?_, fun hl i hi => ?_, fun hl => ?_⟩
  · obtain ⟨hb, rfl⟩ := twoOperandHandlers_begin form ops i hi
    exact hb.takesFault (operands2_wrong s hl)
  · simp only [List.mem_cons, List.not_mem_nil, or_false] at hi
    rcases hi with rfl | rfl
    · exact (printChar_begins ops).takesFault (operand1_wrong s hl)
    · exact (printNum_begins ops).takesFault (operand1_wrong s hl)
  · exact (call_begins ops).takesFault (operandsCall_wrong s hl)

end Sys2Proof.Machine
end

section
/-! PROOFS. The step and the fetch (spec/40_decode_dispatch.md R100–R102, spec/60_exceptions.md R261, R263,
R264): a step runs what its window decodes to, an encoding at the pc is the front of that window, and a read
past the image stops the decode where it begins. -/

namespace Sys2Proof

/-! ## The longest instruction (R102) -/

theorem size_comp_kind : OpType.size ∘ Operand.kind = Operand.size := by
  funext o
  cases o with
  | large | small | var | omitted => rfl

theorem askedFields_size_le (ts : List OpType) :
    ((askedFields ts).map OpType.size).sum ≤ (ts.map OpType.size).sum :=
  ((List.takeWhile_sublist _).map _).sum_le_sum fun _ _ => Nat.zero_le _

/-- A well-formed instruction lies within the bytes the fetch reads. -/
theorem encode_length_le {i : Instr} (h : WellFormed i) : (encode i).length ≤ maxInstrBytes := by
  obtain ⟨-, hf, hw⟩ := Laws.KeyTable.all i
  obtain ⟨ts, f, hl, -, hk⟩ := exists_layout_of_shape hf (hw ▸ h)
  have hs : (i.shape.operands.map Operand.size).sum ≤ (ts.map OpType.size).sum :=
    calc (i.shape.operands.map Operand.size).sum
        = ((i.shape.operands.map Operand.kind).map OpType.size).sum := by rw [List.map_map, size_comp_kind]
      _ = ((askedFields ts).map OpType.size).sum := by rw [hk]
      _ ≤ (ts.map OpType.size).sum := askedFields_size_le ts
  have := hl.size_le
  rw [encode_length, Instr.size, maxInstrBytes]
  omega

end Sys2Proof

namespace Sys2Proof.Machine

/-! ## The bytes at the pc -/

/-- Bytes that lie in the image from an address on are the front of the window there. -/
theorem Memory.window_of_bytes {m : Memory} {bs : List Byte} {a : Int} {n : Nat}
    (hb : ∀ (k : Nat) (b : Byte), bs[k]? = some b → m.readByte (a + k) = some b)
    (hn : bs.length ≤ n) : ∃ rest, m.window n a = bs ++ rest := by
  induction bs generalizing a n with
  | nil => exact ⟨_, rfl⟩
  | cons b bs ih =>
    obtain ⟨n, rfl⟩ := Nat.exists_eq_add_of_le' (Nat.one_le_of_lt hn)
    have h0 : m.readByte a = some b := by simpa using hb 0 b rfl
    have hs (k : Nat) (c : Byte) (hc : bs[k]? = some c) : m.readByte (a + 1 + k) = some c := by
      rw [add_assoc, add_comm (1 : Int)]
      exact hb (k + 1) c hc
    obtain ⟨rest, hr⟩ := ih hs (Nat.le_of_succ_le_succ hn)
    exact ⟨rest, by rw [Memory.window_of_some h0, hr, List.cons_append]⟩

theorem State.fetchBytes_head? (s : State) : s.fetchBytes.head? = s.mem.readByte s.cur.pc := by
  unfold State.fetchBytes maxInstrBytes
  cases hb : s.mem.readByte s.cur.pc with
  | none => rw [Memory.window_of_none hb]; rfl
  | some b => rw [Memory.window_of_some hb]; rfl

/-! ## The outcomes of a step -/

theorem step_of_halted {s : State} (h : s.status = .halted) : step s = .fault .halted := by
  rw [step, h]

theorem step_of_fetch_ok {s : State} {i : Instr} (hr : s.status = .running) (h : s.fetch = .ok i) :
    step s = exec i s := by
  simp only [step, hr, h]

theorem step_of_fetch_error {s : State} {e : DecodeStop} (hr : s.status = .running)
    (h : s.fetch = .error e) : step s = .next (s.fetchFault e) := by
  simp only [step, hr, h]

/-- What a step leaves whose fetch reads past the image from address e on (R261, R264). -/
theorem step_of_runsOut {s : State} {e : Int} (hr : s.status = .running)
    (h : DecodeRunsOut s.mem s.cur.pc e) : ∃ t, step s = .next t ∧ t.status = .halted ∧
      t.haltReason = .fault (.outOfBounds e) ∧ t.diagPc = s.cur.pc ∧
      t.diagOpbyte = s.mem.readByte s.cur.pc ∧
      t.diagClass = (s.mem.readByte s.cur.pc).map opcodeClass ∧
      t.diagOpcode = (s.mem.readByte s.cur.pc).bind opcodeNumber := by
  obtain ⟨j, rfl, hj⟩ := decode_error_of h
  refine ⟨_, step_of_fetch_error hr hj, rfl, rfl, rfl, ?_⟩
  rw [← s.fetchBytes_head?]
  exact ⟨rfl, rfl, rfl⟩

/-- Settles O8: the window is what the step's fetch decodes. -/
theorem stepRunsDecodedInstruction : Obligations.StepRunsDecodedInstruction := by
  unfold Obligations.StepRunsDecodedInstruction
  exact fun s i hr hd => step_of_fetch_ok hr hd

/-- Settles O9: the encoding is the front of the window, and decodes whatever follows it there. -/
theorem stepRunsInstructionEncodedAtPc : Obligations.StepRunsInstructionEncodedAtPc := by
  unfold Obligations.StepRunsInstructionEncodedAtPc
  intro s i hr hwf hb
  obtain ⟨rest, hw⟩ := Memory.window_of_bytes hb (encode_length_le hwf)
  have hd : s.fetch = .ok i := by
    rw [State.fetch, State.fetchBytes, hw]
    exact decodeOfEncodeIsIdentity i rest hwf
  exact step_of_fetch_ok hr hd

/-- Settles O10: the step looks at STATUS first. -/
theorem haltedBlockTakesNoStep : Obligations.HaltedBlockTakesNoStep := by
  unfold Obligations.HaltedBlockTakesNoStep
  exact fun s h => step_of_halted h

/-- Settles O11: a pc outside the image is a fetch whose opcode byte cannot be read. -/
theorem fetchOutsideImageIsOutOfBounds : Obligations.FetchOutsideImageIsOutOfBounds := by
  unfold Obligations.FetchOutsideImageIsOutOfBounds
  intro s hr
  refine ⟨fun e he => step_of_runsOut hr he, fun hpc => ?_⟩
  have hn := Memory.readByte_none_iff.2 hpc
  have h := step_of_runsOut hr (.opcode hn)
  rw [hn] at h
  exact h

end Sys2Proof.Machine
end

section
/-! PROOFS. Operands and suffixes by cases (spec/40_decode_dispatch.md R105–R108), and operand faults
(R110). -/

namespace Sys2Proof.Machine

/-! ## Operands -/

theorem byteWord_eq_ofNat (b : Byte) : byteWord b = BitVec.ofNat 16 b.toNat := by
  apply BitVec.eq_of_toNat_eq
  rw [byteWord, byteNumber_toNat, BitVec.toNat_ofNat, Nat.mod_eq_of_lt (by omega)]

/-- Settles O16: each clause is a case of Resolve, and a list of two is one operand after the other. -/
theorem operandsResolveLeftToRight : Obligations.OperandsResolveLeftToRight := by
  unfold Obligations.OperandsResolveLeftToRight
  refine ⟨fun s w => rfl, fun s b => ?_, fun s b => ?_, fun s => rfl, fun s s1 s2 o1 o2 x y h1 h2 => ?_⟩
  · rw [resolve, byteWord_eq_ofNat, act_answer]
  · rw [resolve, byteWord_eq_ofNat]
  · have hx := resolve_ok_iff.1 h1
    have hy := resolve_ok_iff.1 h2
    exact resolveAll_ok_iff.2 (.cons _ _ _ _ _ _ _ hx (.cons _ _ _ _ _ _ _ hy (.nil s2)))

/-- The operand of a one-operand instruction, resolved. -/
theorem operand1_of_resolves {i : Instr} {o : Operand} {x : Word} {s s1 : State}
    (ho : i.shape.operands = [o]) (h : Resolves s o x s1) :
    operand1 (i.inst s.cur.pc) s = .ok x s1 :=
  operand1_ok_iff.2 ⟨o, ho, h⟩

/-- The operands of a two-operand instruction, resolved one after the other. -/
theorem operands2_of_resolves {i : Instr} {o1 o2 : Operand} {x y : Word} {s s1 s2 : State}
    (ho : i.shape.operands = [o1, o2]) (h1 : Resolves s o1 x s1) (h2 : Resolves s1 o2 y s2) :
    operands2 (i.inst s.cur.pc) s = .ok (x, y) s2 :=
  operands2_ok_iff.2 ⟨o1, o2, s1, ho, h1, h2⟩

/-- The first of two operands fails, or the second after it. -/
theorem operands2_error_of {inst : Inst} {o1 o2 : Operand} {s : State} {k : FaultKind}
    (ho : inst.operands = [o1, o2])
    (h : ResolveFails s o1 k ∨ ∃ x s1, Resolves s o1 x s1 ∧ ResolveFails s1 o2 k) :
    ∃ u, operands2 inst s = .error k u := by
  rw [operands2_eq ho]
  obtain h1 | ⟨x, s1, h1, h2⟩ := h
  · exact ⟨s, act_andThen_error (resolve_error_of h1)⟩
  · exact ⟨s1, (act_andThen_ok (resolve_ok_iff.2 h1)).trans (act_andThen_error (resolve_error_of h2))⟩

/-- The first operand of a list that fails ends its resolution. -/
theorem resolveAll_error_of {before : List Operand} {xs : List Word} {s s1 : State} {k : FaultKind}
    {o : Operand} (rest : List Operand) (hb : ResolvesAll s before xs s1) (ho : ResolveFails s1 o k) :
    resolveAll (before ++ o :: rest) s = .error k s1 := by
  induction hb with
  | nil s => exact act_andThen_error (resolve_error_of ho)
  | cons s o' x s' os xs t h _ ih =>
    exact (act_andThen_ok (resolve_ok_iff.2 h)).trans (act_andThen_error (ih ho))

/-- A call of one to four operands fails as their resolution does. -/
theorem operandsCall_error_of {inst : Inst} {s u : State} {k : FaultKind}
    (hl : inst.operands.length ≤ 4) (h : resolveAll inst.operands s = .error k u) :
    operandsCall inst s = .error k u := by
  unfold operandsCall
  cases ho : inst.operands with
  | nil => rw [ho] at h; cases h
  | cons r args =>
    rw [ho] at h hl
    have hargs : args.length ≤ 3 := Nat.le_of_succ_le_succ hl
    simp only [if_pos hargs]
    obtain hr | ⟨x, t, hr, ht⟩ := act_andThen_error_iff.1 h
    · exact act_andThen_error hr
    · obtain hxs | ⟨xs, t', -, hn⟩ := act_andThen_error_iff.1 ht
      · exact (act_andThen_ok hr).trans (act_andThen_error hxs)
      · cases hn

theorem oneOperandHandlers_begin (o : Operand) :
    ∀ i ∈ [Instr.getSibling o, .getChild o, .getParent o, .inc o, .dec o, .printObj o, .ret o,
      .printChar [o], .printNum [o]], BeginsWith operand1 i ∧ i.shape.operands = [o] := by
  intro i hi
  simp only [List.mem_cons, List.not_mem_nil, or_false] at hi
  rcases hi with rfl | rfl | rfl | rfl | rfl | rfl | rfl | rfl | rfl
  · exact ⟨⟨_, fun s => by rw [exec, execGetSibling]; rfl⟩, rfl⟩
  · exact ⟨⟨_, fun s => by rw [exec, execGetChild]; rfl⟩, rfl⟩
  · exact ⟨⟨_, fun s => by rw [exec, execGetParent]⟩, rfl⟩
  · exact ⟨⟨_, fun s => by rw [exec, execInc]; rfl⟩, rfl⟩
  · exact ⟨⟨_, fun s => by rw [exec, execDec]; rfl⟩, rfl⟩
  · exact ⟨⟨_, fun s => by rw [exec, execPrintObj]⟩, rfl⟩
  · exact ⟨⟨_, fun s => by rw [exec, execRet]⟩, rfl⟩
  · exact ⟨printChar_begins [o], rfl⟩
  · exact ⟨printNum_begins [o], rfl⟩

/-- Settles O43: every one of these handlers begins with the resolution of its operands, first to last. -/
theorem operandFaultsComeFirst : Obligations.OperandFaultsComeFirst := by
  unfold Obligations.OperandFaultsComeFirst
  refine ⟨fun form o1 o2 s k => ⟨fun h i hi => ?_, fun h i hi => ?_⟩,
    fun before rest o xs s s1 k hl hb ho => ?_⟩
  · obtain ⟨hbeg, hops⟩ := twoOperandHandlers_begin form [o1, o2] i hi
    obtain ⟨u, hu⟩ := operands2_error_of (inst := i.inst s.cur.pc) hops h
    exact hbeg.takesFault hu
  · obtain ⟨hbeg, hops⟩ := oneOperandHandlers_begin o1 i hi
    refine hbeg.takesFault (t := s) ?_
    rw [operand1_eq (inst := i.inst s.cur.pc) hops]
    exact resolve_error_of h
  · exact (call_begins _).takesFault (operandsCall_error_of hl (resolveAll_error_of rest hb ho))

/-! ## Suffixes -/

theorem memByte_of_readable {a : Int} {b : Byte} {s : State} (h : s.mem.readByte a = some b) :
    memByte a s = .ok b s :=
  memByte_ok_iff.2 ⟨h, rfl⟩

theorem storeResult_of_storesAt {x : Word} {q : Int} {s t : State} (h : StoresAt s q x t) :
    storeResult x q s = .ok (q + 1) t :=
  storeResult_ok_iff.2 ⟨rfl, h⟩

theorem storeResult_of_unreadable {x : Word} {q : Int} {s : State} (h : s.mem.readByte q = none) :
    storeResult x q s = .error (.outOfBounds q) s :=
  act_andThen_error (memByte_error h)

theorem storeResult_of_unwritable {x : Word} {q : Int} {s : State} {v : Byte} {k : FaultKind}
    (hv : s.mem.readByte q = some v) (h : WriteFails s (v.setWidth 16) k) :
    storeResult x q s = .error k s :=
  (act_andThen_ok (memByte_of_readable hv)).trans (act_andThen_error (writeVar_error_of h))

/-- Settles O17: StoreResult reads its byte and then writes the variable the byte names. -/
theorem storeSuffixWritesNamedVariable : Obligations.StoreSuffixWritesNamedVariable := by
  unfold Obligations.StoreSuffixWritesNamedVariable
  intro s x q
  exact ⟨storeResult_of_unreadable, fun v t hv hw => storeResult_of_storesAt ⟨v, hv, hw⟩,
    fun v k hv hw => storeResult_of_unwritable hv hw⟩

theorem branch_of_unreadable {cond : Bool} {q : Int} {s : State} (h : s.mem.readByte q = none) :
    branch cond q s = .error (.outOfBounds q) s :=
  act_andThen_error (act_andThen_error (memByte_error h))

theorem branch_of_unreadable_second {cond : Bool} {q : Int} {s : State} {b : Byte}
    (hb : s.mem.readByte q = some b) (h6 : b.getLsbD 6 = false) (h : s.mem.readByte (q + 1) = none) :
    branch cond q s = .error (.outOfBounds (q + 1)) s := by
  have hbytes : branchBytes q s = .error (.outOfBounds (q + 1)) s := by
    refine (act_andThen_ok (memByte_of_readable hb)).trans ?_
    rw [h6, if_neg Bool.false_ne_true]
    exact act_andThen_error (memByte_error h)
  exact act_andThen_error hbytes

/-- Settles O18: a branch with its bytes read does one case of branchTo. -/
theorem branchFiresOnEqualPolarity : Obligations.BranchFiresOnEqualPolarity := by
  unfold Obligations.BranchFiresOnEqualPolarity
  intro s cond q
  refine ⟨fun p off after hs => ?_, branch_of_unreadable, fun b => branch_of_unreadable_second⟩
  rw [branch_of_suffix hs]
  refine ⟨fun hp => ?_, ?_, ?_, ?_⟩
  · rw [beq_eq_false_iff_ne.2 hp]; rfl
  · rintro rfl rfl; rw [beq_self_eq_true]; rfl
  · rintro rfl rfl; rw [beq_self_eq_true]; rfl
  · rintro rfl h0 h1
    rw [beq_self_eq_true, branchTo, if_pos rfl, if_neg h0, if_neg h1]
    rfl

end Sys2Proof.Machine
end

section
/-! PROOFS. The arithmetic instructions and their faults (spec/44_variables_arith.md R234–R238). -/

namespace Sys2Proof.Machine

theorem ofInt_toNat_sub (a b : Word) : BitVec.ofInt 16 ((a.toNat : Int) - b.toNat) = a - b := by
  bv_omega

section
variable {i : Instr} {f : Word → Word → Word} {o1 o2 : Operand} {a b : Word} {s s1 s2 t : State}
  {k : FaultKind}

/-- add and sub complete, by the function they store. -/
theorem execBinary_of_storesAt (hi : exec i s = runHandler i (storeBinary f) s)
    (ho : i.shape.operands = [o1, o2]) (h1 : Resolves s o1 a s1) (h2 : Resolves s1 o2 b s2)
    (hs : StoresAt s2 (endOf i s) (f a b) t) : exec i s = .next (t.withPc (endOf i s + 1)) :=
  hi.trans <| runHandler_of_ok (u := ()) <|
    storeBinary_ok_iff.2 ⟨o1, o2, a, b, s1, s2, t, ho, h1, h2, hs, rfl⟩

/-- div and mod complete, by the function they store. -/
theorem execQuotient_of_storesAt (hi : exec i s = runHandler i (storeQuotient f) s)
    (ho : i.shape.operands = [o1, o2]) (h1 : Resolves s o1 a s1) (h2 : Resolves s1 o2 b s2)
    (hb : b ≠ 0) (hs : StoresAt s2 (endOf i s) (f a b) t) :
    exec i s = .next (t.withPc (endOf i s + 1)) :=
  hi.trans <| runHandler_of_ok (u := ()) <|
    storeQuotient_ok_iff.2 ⟨o1, o2, a, b, s1, s2, t, ho, h1, h2, hb, hs, rfl⟩

theorem execBinary_takesFault (hi : exec i s = runHandler i (storeBinary f) s)
    (hv : operands2 (i.inst s.cur.pc) s = .ok (a, b) s2) (hs : StoreFails s2 (endOf i s) k) :
    TakesFault (exec i s) i s k := by
  obtain ⟨u, hu⟩ := storeResult_error_of (x := f a b) hs
  rw [hi]
  refine runHandler_of_error (t := u) ?_
  rw [storeBinary, act_andThen_ok hv]
  exact act_andThen_error hu

theorem execQuotient_takesFault (hi : exec i s = runHandler i (storeQuotient f) s)
    (hv : operands2 (i.inst s.cur.pc) s = .ok (a, b) s2) (hb : b ≠ 0)
    (hs : StoreFails s2 (endOf i s) k) : TakesFault (exec i s) i s k := by
  obtain ⟨u, hu⟩ := storeResult_error_of (x := f a b) hs
  have hc : checkDivisor b s2 = .ok () s2 := checkDivisor_ok_iff.2 ⟨hb, rfl⟩
  rw [hi]
  refine runHandler_of_error (t := u) ?_
  rw [storeQuotient, act_andThen_ok hv, act_andThen_ok hc]
  exact act_andThen_error hu

theorem execQuotient_divideByZero (hi : exec i s = runHandler i (storeQuotient f) s)
    (hv : operands2 (i.inst s.cur.pc) s = .ok (a, 0) s2) :
    TakesFault (exec i s) i s .divideByZero := by
  rw [hi]
  refine runHandler_of_error (t := s2) ?_
  rw [storeQuotient, act_andThen_ok hv]
  exact act_andThen_error rfl

end

/-- Settles O20: the two shared handlers store what the rules give, or fail by the divisor or by the store
suffix. -/
theorem arithmeticStoresItsResult : Obligations.ArithmeticStoresItsResult := by
  unfold Obligations.ArithmeticStoresItsResult
  intro form o1 o2 s s1 s2 t a b h1 h2
  have hv (i : Instr) (hi : i.shape.operands = [o1, o2]) :
      operands2 (i.inst s.cur.pc) s = .ok (a, b) s2 := operands2_of_resolves hi h1 h2
  refine ⟨fun hs => ?_, fun hs => ?_, fun hb hs => ?_, fun hb hs => ?_, ?_, fun k i hi hs => ?_,
    fun k hb i hi hs => ?_⟩
  · exact execBinary_of_storesAt rfl rfl h1 h2 hs
  · rw [ofInt_toNat_sub] at hs
    exact execBinary_of_storesAt rfl rfl h1 h2 hs
  · rw [← BitVec.udiv_def] at hs
    exact execQuotient_of_storesAt rfl rfl h1 h2 hb hs
  · rw [← BitVec.umod_def] at hs
    exact execQuotient_of_storesAt rfl rfl h1 h2 hb hs
  · rintro rfl
    exact ⟨execQuotient_divideByZero rfl (hv _ rfl), execQuotient_divideByZero rfl (hv _ rfl)⟩
  · simp only [List.mem_cons, List.not_mem_nil, or_false] at hi
    rcases hi with rfl | rfl
    · exact execBinary_takesFault rfl (hv _ rfl) hs
    · exact execBinary_takesFault rfl (hv _ rfl) hs
  · simp only [List.mem_cons, List.not_mem_nil, or_false] at hi
    rcases hi with rfl | rfl
    · exact execQuotient_takesFault rfl (hv _ rfl) hb hs
    · exact execQuotient_takesFault rfl (hv _ rfl) hb hs

end Sys2Proof.Machine
end

section
/-! PROOFS. The faults of a call whose operands are resolved (spec/43_frames_calls.md R200–R202). -/

namespace Sys2Proof.Machine

section
variable {r : Word} {args : List Word} {stop : Int} {s : State} {count : Byte}

theorem callNothing_error_of {k : FaultKind} (h : StoreFails s stop k) :
    ∃ u, callNothing stop s = .error k u := by
  obtain ⟨u, hu⟩ := storeResult_error_of (x := 0) h
  exact ⟨u, act_andThen_error hu⟩

theorem enterRoutine_of_unreadable (h : s.mem.readByte (unpack r) = none) :
    enterRoutine r args stop s = .error (.outOfBounds (unpack r)) s :=
  act_andThen_error (memByte_error h)

theorem checkLocalCount_of_gt (h : 15 < count.toNat) :
    checkLocalCount count s = .error (.invalidLocalCount count) s := by
  rw [checkLocalCount, if_pos h, raise_apply]

theorem checkLocalCount_of_le (h : count.toNat ≤ 15) : checkLocalCount count s = .ok () s :=
  checkLocalCount_ok_iff.2 ⟨h, rfl⟩

theorem enterRoutine_of_localCount (hc : s.mem.readByte (unpack r) = some count)
    (h : 15 < count.toNat) : enterRoutine r args stop s = .error (.invalidLocalCount count) s := by
  rw [enterRoutine, act_andThen_ok (memByte_of_readable hc)]
  exact act_andThen_error (checkLocalCount_of_gt h)

theorem enterRoutine_of_depth (hc : s.mem.readByte (unpack r) = some count) (hl : count.toNat ≤ 15)
    (h : s.params.maxFrames = some (s.callers.length + 1)) :
    enterRoutine r args stop s = .error .callDepthOverflow s := by
  rw [enterRoutine, act_andThen_ok (memByte_of_readable hc), act_andThen_ok (checkLocalCount_of_le hl)]
  exact act_andThen_error (if_pos h)

/-- The defaults are read in order, so the first that cannot be read is the fault. -/
theorem enterRoutine_of_default {j : Nat} (hc : s.mem.readByte (unpack r) = some count)
    (hl : count.toNat ≤ 15) (hd : s.params.maxFrames ≠ some (s.callers.length + 1))
    (hj : j < count.toNat)
    (hr : ∀ i : Nat, i < j → (s.mem.readWord (unpack r + 1 + 2 * i)).isSome = true)
    (hn : s.mem.readWord (unpack r + 1 + 2 * j) = none) :
    enterRoutine r args stop s = .error (.outOfBounds (unpack r + 1 + 2 * j)) s := by
  have hdepth : checkDepth s = .ok () s := checkDepth_ok_iff.2 ⟨hd, rfl⟩
  have hw : memWords count.toNat (unpack r + 1) s = .error (.outOfBounds (unpack r + 1 + 2 * j)) s := by
    rw [memWords, Memory.readWords_error_of hj hr hn]
  rw [enterRoutine, act_andThen_ok (memByte_of_readable hc), act_andThen_ok (checkLocalCount_of_le hl),
    act_andThen_ok hdepth]
  exact act_andThen_error hw

end

section
variable {o : Operand} {os : List Operand} {s s1 u : State} {r : Word} {args : List Word} {k : FaultKind}

/-- A call whose operands are resolved fails as what follows them does. -/
theorem call_takesFault_of (hl : os.length ≤ 3) (ho : ResolvesAll s (o :: os) (r :: args) s1)
    (h : (if r = 0 then callNothing (endOf (.call (o :: os)) s)
      else enterRoutine r args (endOf (.call (o :: os)) s)) s1 = .error k u) :
    TakesFault (exec (.call (o :: os)) s) (.call (o :: os)) s k := by
  have hv : operandsCall (Instr.inst (.call (o :: os)) s.cur.pc) s = .ok (r, args) s1 :=
    operandsCall_ok_iff.2 ⟨o, os, rfl, hl, ho⟩
  rw [exec, execCall]
  exact runHandler_of_error ((act_andThen_ok hv).trans h)

theorem call_takesFault_of_enterRoutine (hl : os.length ≤ 3)
    (ho : ResolvesAll s (o :: os) (r :: args) s1) (hr : r ≠ 0)
    (h : enterRoutine r args (endOf (.call (o :: os)) s) s1 = .error k u) :
    TakesFault (exec (.call (o :: os)) s) (.call (o :: os)) s k :=
  call_takesFault_of hl ho (by rwa [if_neg hr])

end

/-- Settles O24: the faults are those of the routine's entry, in the order of its checks, and those of the
store of a call to nothing. -/
theorem callFaultsInOrder : Obligations.CallFaultsInOrder := by
  unfold Obligations.CallFaultsInOrder
  intro o os s s1 r args hl ho
  refine ⟨fun hr h => ?_, fun count hr hc => ⟨fun h => ?_, fun h15 h => ?_, fun j h15 hd hj hi hn => ?_⟩,
    fun k hr hs => ?_⟩
  · exact call_takesFault_of_enterRoutine hl ho hr (enterRoutine_of_unreadable h)
  · exact call_takesFault_of_enterRoutine hl ho hr (enterRoutine_of_localCount hc h)
  · exact call_takesFault_of_enterRoutine hl ho hr (enterRoutine_of_depth hc h15 h)
  · exact call_takesFault_of_enterRoutine hl ho hr (enterRoutine_of_default hc h15 hd hj hi hn)
  · obtain ⟨u, hu⟩ := callNothing_error_of hs
    exact call_takesFault_of hl ho (by rwa [if_pos hr])

end Sys2Proof.Machine
end

section
/-! PROOFS. The object links and tests with their suffixes (spec/42_objects.md R173–R177). -/

namespace Sys2Proof.Machine

theorem objRead_of_sees {s : State} {n : Word} {g : GameObject} (h : SeesObject s n g) :
    objRead n s = .ok g s :=
  objRead_ok_iff.2 ⟨objectAt_of_sees h, rfl⟩

/-! ## Links -/

theorem bne_zero_eq_decide (x : Word) : (x != 0) = decide (x ≠ 0) := by
  rw [bne, beq_eq_decide, decide_not]

section
variable {i : Instr} {link : GameObject → Word} {o : Operand} {n : Word} {g : GameObject}
  {s s1 s2 t : State} {k : FaultKind}

/-- get_sibling and get_child complete, by the link they store. -/
theorem execLink_of_branches (hi : exec i s = runHandler i (storeLinkAndBranch link) s)
    (ho : i.shape.operands = [o]) (hr : Resolves s o n s1) (hg : SeesObject s1 n g)
    (hs : StoresAt s1 (endOf i s) (link g) s2)
    (hb : Branches s2 (decide (link g ≠ 0)) (endOf i s + 1) t) : exec i s = .next t := by
  rw [← bne_zero_eq_decide] at hb
  exact hi.trans <| runHandler_of_ok (u := ()) <|
    storeLinkAndBranch_ok_iff.2 ⟨o, n, g, s1, s2, ho, hr, objectAt_of_sees hg, hs, hb⟩

theorem execLink_takesFault_of_store (hi : exec i s = runHandler i (storeLinkAndBranch link) s)
    (hv : operand1 (i.inst s.cur.pc) s = .ok n s1) (hg : SeesObject s1 n g)
    (hs : StoreFails s1 (endOf i s) k) : TakesFault (exec i s) i s k := by
  obtain ⟨u, hu⟩ := storeResult_error_of (x := link g) hs
  rw [hi]
  refine runHandler_of_error (t := u) ?_
  rw [storeLinkAndBranch, act_andThen_ok hv, act_andThen_ok (objRead_of_sees hg)]
  exact act_andThen_error hu

theorem execLink_takesFault_of_branch (hi : exec i s = runHandler i (storeLinkAndBranch link) s)
    (hv : operand1 (i.inst s.cur.pc) s = .ok n s1) (hg : SeesObject s1 n g)
    (hs : StoresAt s1 (endOf i s) (link g) s2)
    (hb : BranchFails s2 (decide (link g ≠ 0)) (endOf i s + 1) k) : TakesFault (exec i s) i s k := by
  rw [← bne_zero_eq_decide] at hb
  obtain ⟨u, hu⟩ := branch_error_of hb
  rw [hi]
  refine runHandler_of_error (t := u) ?_
  rw [storeLinkAndBranch, act_andThen_ok hv, act_andThen_ok (objRead_of_sees hg)]
  exact (act_andThen_ok (storeResult_of_storesAt hs)).trans hu

theorem execGetParent_of_storesAt (hv : operand1 (Instr.inst (.getParent o) s.cur.pc) s = .ok n s1)
    (hg : SeesObject s1 n g) (hs : StoresAt s1 (endOf (.getParent o) s) g.parent s2) :
    exec (.getParent o) s = .next (s2.withPc (endOf (.getParent o) s + 1)) := by
  rw [exec, execGetParent]
  refine runHandler_of_ok (u := ()) ?_
  rw [act_andThen_ok hv, act_andThen_ok (objRead_of_sees hg)]
  exact act_andThen_ok (storeResult_of_storesAt hs)

theorem execGetParent_takesFault (hv : operand1 (Instr.inst (.getParent o) s.cur.pc) s = .ok n s1)
    (hg : SeesObject s1 n g) (hs : StoreFails s1 (endOf (.getParent o) s) k) :
    TakesFault (exec (.getParent o) s) (.getParent o) s k := by
  obtain ⟨u, hu⟩ := storeResult_error_of (x := g.parent) hs
  rw [exec, execGetParent]
  refine runHandler_of_error (t := u) ?_
  rw [act_andThen_ok hv, act_andThen_ok (objRead_of_sees hg)]
  exact act_andThen_error hu

end

/-- Settles O27: the object seen, the store suffix and then the branch suffix answer or fail. -/
theorem objectLinksAreStored : Obligations.ObjectLinksAreStored := by
  unfold Obligations.ObjectLinksAreStored
  intro o s s1 s2 t n g hr hg
  have hv (i : Instr) (hi : i.shape.operands = [o]) : operand1 (i.inst s.cur.pc) s = .ok n s1 :=
    operand1_of_resolves hi hr
  refine ⟨fun hs hb => ?_, fun hs hb => ?_, fun hs => ?_, fun k i hi hs => ?_, fun k hs hb => ?_,
    fun k hs hb => ?_⟩
  · exact execLink_of_branches rfl rfl hr hg hs hb
  · exact execLink_of_branches rfl rfl hr hg hs hb
  · exact execGetParent_of_storesAt (hv _ rfl) hg hs
  · simp only [List.mem_cons, List.not_mem_nil, or_false] at hi
    rcases hi with rfl | rfl | rfl
    · exact execLink_takesFault_of_store rfl (hv _ rfl) hg hs
    · exact execLink_takesFault_of_store rfl (hv _ rfl) hg hs
    · exact execGetParent_takesFault (hv _ rfl) hg hs
  · exact execLink_takesFault_of_branch rfl (hv _ rfl) hg hs hb
  · exact execLink_takesFault_of_branch rfl (hv _ rfl) hg hs hb

/-! ## Tests -/

/-- The port's flag of a number is the record's, and a number that has one is below 32. -/
theorem attr_of_getElem? {g : GameObject} {a : Word} {x : Bool} (h : g.attrs[a.toNat]? = some x) :
    g.attr a = x ∧ a.toNat < 32 := by
  refine ⟨by rw [GameObject.attr, h]; rfl, ?_⟩
  exact (Vector.getElem?_eq_some_iff.1 h).1

section
variable {form : Form2OP} {ops : List Operand} {a b : Word} {g : GameObject} {x : Bool} {s s2 t : State}
  {k : FaultKind}

/-- jin does what its branch does. -/
theorem execJin_eq_branch (hv : operands2 (Instr.inst (.jin form ops) s.cur.pc) s = .ok (a, b) s2)
    (hg : SeesObject s2 a g) :
    exec (.jin form ops) s = runHandler (.jin form ops)
      (fun inst _ => branch (decide (g.parent = b)) inst.stop s2) s := by
  rw [exec, execJin, runHandler, act_andThen_ok hv, act_andThen_ok (objRead_of_sees hg)]
  rfl

/-- test_attr does what its branch does. -/
theorem execTestAttr_eq_branch
    (hv : operands2 (Instr.inst (.testAttr form ops) s.cur.pc) s = .ok (a, b) s2)
    (hg : SeesObject s2 a g) (hx : g.attrs[b.toNat]? = some x) :
    exec (.testAttr form ops) s = runHandler (.testAttr form ops)
      (fun inst _ => branch x inst.stop s2) s := by
  obtain ⟨hxa, hb⟩ := attr_of_getElem? hx
  have hc : attrCheck b s2 = .ok () s2 := attrCheck_ok_iff.2 ⟨hb, rfl⟩
  rw [exec, execTestAttr, runHandler, act_andThen_ok hv, act_andThen_ok (objRead_of_sees hg),
    act_andThen_ok hc, hxa]
  rfl

/-- An instruction that does what its branch does completes as the branch does. -/
theorem next_of_branches {i : Instr}
    (hi : exec i s = runHandler i (fun inst _ => branch x inst.stop s2) s)
    (hb : Branches s2 x (endOf i s) t) : exec i s = .next t :=
  hi.trans (runHandler_of_ok (u := ()) (branch_ok_iff.2 hb))

/-- An instruction that does what its branch does fails as the branch does. -/
theorem takesFault_of_branchFails {i : Instr}
    (hi : exec i s = runHandler i (fun inst _ => branch x inst.stop s2) s)
    (hb : BranchFails s2 x (endOf i s) k) : TakesFault (exec i s) i s k := by
  obtain ⟨u, hu⟩ := branch_error_of hb
  rw [hi]
  exact runHandler_of_error hu

end

/-- Settles O28: the operands resolved and the object seen, each instruction is its branch. -/
theorem objectTestsBranch : Obligations.ObjectTestsBranch := by
  unfold Obligations.ObjectTestsBranch
  intro form o1 o2 s s1 s2 t a b g h1 h2 hg
  have hjin := execJin_eq_branch (form := form) (operands2_of_resolves rfl h1 h2) hg
  have htest (x : Bool) := execTestAttr_eq_branch (x := x) (form := form)
    (operands2_of_resolves rfl h1 h2) hg
  refine ⟨fun hb => ?_, fun x hx hb => ?_, fun k hb => ?_, fun x k hx hb => ?_⟩
  · exact next_of_branches hjin hb
  · exact next_of_branches (htest x hx) hb
  · exact takesFault_of_branchFails hjin hb
  · exact takesFault_of_branchFails (htest x hx) hb

end Sys2Proof.Machine
end

section
/-! PROOFS. Packed strings: the reader of the codes against the rules' relations (spec/41_text.md R130,
R131). -/

namespace Sys2Proof.Machine

/-- The model's codes of a word are the rule's (R131). -/
theorem wordCodes_eq_codesOfWord (w : Word) : wordCodes w = codesOfWord w := by
  have h (k : Nat) : w.extractLsb' k 5 = BitVec.ofNat 5 (w.toNat / 2 ^ k) :=
    BitVec.eq_of_toNat_eq (by rw [BitVec.extractLsb'_toNat, Nat.shiftRight_eq_div_pow, BitVec.toNat_ofNat])
  rw [wordCodes, h, h, h, pow_zero, Nat.div_one]
  rfl

section
variable {m : Memory} {p a e : Int} {w : Word} {n : Nat} {cs : List Code}

theorem codesFuel_last (hw : m.readWord p = some w) (h15 : w.getLsbD 15 = true) :
    codesFuel m (n + 1) p = .ok (codesOfWord w, p + 2) := by
  rw [codesFuel, hw]
  simp only [h15, if_true, wordCodes_eq_codesOfWord]

theorem codesFuel_more (hw : m.readWord p = some w) (h15 : w.getLsbD 15 = false) :
    codesFuel m (n + 1) p =
      (codesFuel m n (p + 2)).map fun r => (codesOfWord w ++ r.1, r.2) := by
  rw [codesFuel, hw]
  simp only [h15, Bool.false_eq_true, if_false, wordCodes_eq_codesOfWord]

/-- Fuel that reaches the image's end is left at every word that can be read. -/
theorem exists_fuel_of_readWord (hw : m.readWord p = some w)
    (hn : 0 ≤ p → (m.size : Int) < p + 2 * n) :
    ∃ k : Nat, n = k + 1 ∧ (m.size : Int) < p + 2 + 2 * k := by
  have hb := Memory.readWord_bounds hw
  exact ⟨n - 1, by omega, by omega⟩

/-- A terminated string is read to its end bit by any fuel that reaches the image's end. -/
theorem codesFuel_of_packedText (h : PackedText m p cs e) (n : Nat)
    (hn : 0 ≤ p → (m.size : Int) < p + 2 * n) : codesFuel m n p = .ok (cs, e) := by
  induction h generalizing n with
  | last p w hw h15 =>
    obtain ⟨n, rfl, -⟩ := exists_fuel_of_readWord hw hn
    exact codesFuel_last hw h15
  | more p w cs e hw h15 _ ih =>
    obtain ⟨n, rfl, hn'⟩ := exists_fuel_of_readWord hw hn
    rw [codesFuel_more hw h15, ih n fun _ => hn']
    rfl

/-- Reading fails only where the string runs out of the image: fuel that reaches the image's end is never
what stops it. -/
theorem textRunsOut_of_codesFuel_error (n : Nat) (hn : 0 ≤ p → (m.size : Int) < p + 2 * n)
    (h : codesFuel m n p = .error a) : TextRunsOut m p a := by
  induction n generalizing p with
  | zero =>
    cases h
    exact .here _ (Memory.readWord_none_iff.2 (by simp only [Nat.cast_zero] at hn; omega))
  | succ n ih =>
    cases hw : m.readWord p with
    | none =>
      rw [codesFuel, hw] at h
      cases h
      exact .here _ hw
    | some w =>
      cases h15 : w.getLsbD 15 with
      | true => rw [codesFuel_last hw h15] at h; cases h
      | false =>
        obtain ⟨_, ⟨⟩, hn'⟩ := exists_fuel_of_readWord hw hn
        refine .later p w a hw h15 (ih (fun _ => hn') ?_)
        rw [codesFuel_more hw h15] at h
        cases hr : codesFuel m n (p + 2) with
        | ok r => rw [hr] at h; cases h
        | error b => rw [hr] at h; cases h; rfl

theorem Memory.codes_of_packedText (h : PackedText m p cs e) : m.codes p = .ok (cs, e) :=
  codesFuel_of_packedText h _ fun _ => by push_cast; omega

/-- A string that runs out of the image is words with no end bit up to the first that cannot be read. -/
theorem TextRunsOut.unterminated (h : TextRunsOut m p a) :
    m.readWord a = none ∧ ∃ n : Nat, a = p + 2 * n ∧
      ∀ j : Nat, j < n → ∃ w, m.readWord (p + 2 * j) = some w ∧ w.getLsbD 15 = false := by
  induction h with
  | here p h => exact ⟨h, 0, by simp, fun j hj => absurd hj (Nat.not_lt_zero j)⟩
  | later p w a hw h15 _ ih =>
    obtain ⟨ha, n, rfl, hj⟩ := ih
    refine ⟨ha, n + 1, by push_cast; ring, fun j hjn => ?_⟩
    cases j with
    | zero => exact ⟨w, by simpa using hw, h15⟩
    | succ j =>
      rw [show p + 2 * ((j + 1 : Nat) : Int) = p + 2 + 2 * (j : Int) by push_cast; ring]
      exact hj j (Nat.lt_of_succ_lt_succ hjn)

end

/-- Settles O32, by induction on the words read: the fuel, over half the image's size, outlasts them. -/
theorem codesReadToTheEndBit : Obligations.CodesReadToTheEndBit := by
  unfold Obligations.CodesReadToTheEndBit
  refine ⟨fun m p e cs => Memory.codes_of_packedText, fun m p a h => ?_⟩
  exact (textRunsOut_of_codesFuel_error _ (fun _ => by push_cast; omega) h).unterminated

end Sys2Proof.Machine
end

section
/-! PROOFS. The alphabets and the decompressor's loop (spec/41_text.md R133–R140). -/

namespace Sys2Proof.Machine

/-! ## Alphabets -/

theorem alphabetTable_space_and_controls (alph : Alphabet) :
    (alphabetTable alph).length = 32 ∧ (alphabetTable alph)[0]? = some (some ' ') ∧
      ∀ k, k < 6 → 1 ≤ k → (alphabetTable alph)[k]? = some none := by
  cases alph with
  | a0 => decide
  | a1 => decide
  | a2 => decide

/-- Settles O38, entry by entry. -/
theorem alphabetsHoldTheSpecStrings : Obligations.AlphabetsHoldTheSpecStrings := by
  unfold Obligations.AlphabetsHoldTheSpecStrings
  refine ⟨fun alph => ?_, by decide, by decide, by decide, by decide, by decide⟩
  obtain ⟨hlen, hspace, hcontrol⟩ := alphabetTable_space_and_controls alph
  exact ⟨hlen, hspace, fun k h1 h5 => hcontrol k (by omega) h1⟩

/-- Every code from 6 on, in A2 from 8 on, stands for a character. -/
theorem alphabetTable_character (alph : Alphabet) :
    ∀ k, k < 32 → 6 ≤ k → (alph = .a2 → 8 ≤ k) → (alphabetTable alph)[k]?.join.isSome = true := by
  cases alph with
  | a0 => decide
  | a1 => decide
  | a2 => decide

theorem exists_alphabetTable_eq {alph : Alphabet} {c : Code} (h6 : 6 ≤ c.toNat)
    (h8 : alph = .a2 → 8 ≤ c.toNat) : ∃ ch, (alphabetTable alph)[c.toNat]? = some (some ch) := by
  obtain ⟨ch, hch⟩ := Option.isSome_iff_exists.1 (alphabetTable_character alph c.toNat c.isLt h6 h8)
  exact ⟨ch, Option.join_eq_some_iff.1 hch⟩

theorem mapGlyph_of_entry {alph : Alphabet} {c : Code} {ch : Char}
    (h : (alphabetTable alph)[c.toNat]? = some (some ch)) : mapGlyph alph c = [ch] := by
  rw [mapGlyph, List.getD_eq_getElem?_getD, h]
  rfl

/-! ## The loop, case by case -/

section
variable (tbl : List Text) (alph : Alphabet) (off : Nat) (cs : List Code)

theorem decodeLoop_cons (m : TextMode) (c : Code) :
    decodeLoop tbl m (c :: cs) = (textStep tbl m c).1 ++ decodeLoop tbl (textStep tbl m c).2 cs := rfl

theorem decodeLoop_pending (c : Code) :
    decodeLoop tbl ⟨alph, true, off⟩ (c :: cs) =
      tbl.getD (off + c.toNat) [] ++ decodeLoop tbl ⟨.a0, false, off⟩ cs := rfl

theorem decodeLoop_space :
    decodeLoop tbl ⟨alph, false, off⟩ (0 :: cs) = ' ' :: decodeLoop tbl ⟨.a0, false, off⟩ cs := rfl

theorem decodeLoop_shift1 :
    decodeLoop tbl ⟨alph, false, off⟩ (4 :: cs) = decodeLoop tbl ⟨.a1, false, off⟩ cs := rfl

theorem decodeLoop_shift2 :
    decodeLoop tbl ⟨alph, false, off⟩ (5 :: cs) = decodeLoop tbl ⟨.a2, false, off⟩ cs := rfl

theorem decodeLoop_newline :
    decodeLoop tbl ⟨.a2, false, off⟩ (7 :: cs) = '\n' :: decodeLoop tbl ⟨.a0, false, off⟩ cs := rfl

theorem decodeLoop_ctrlGlyph :
    decodeLoop tbl ⟨.a2, false, off⟩ (6 :: cs) =
      Config.ctrlGlyph ++ decodeLoop tbl ⟨.a0, false, off⟩ cs := rfl

variable {alph off cs} {c : Code}

theorem textStep_abbreviation (h1 : 1 ≤ c.toNat) (h3 : c.toNat ≤ 3) :
    textStep tbl ⟨alph, false, off⟩ c = ([], ⟨.a2, true, 32 * (c.toNat - 1)⟩) := by
  have h0 : c ≠ 0 := by rintro rfl; exact absurd h1 (by decide)
  have h123 : c = 1 ∨ c = 2 ∨ c = 3 := by bv_omega
  rw [textStep, if_neg Bool.false_ne_true, if_neg h0, if_pos h123]

theorem textStep_character (h6 : 6 ≤ c.toNat) (h8 : alph = .a2 → 8 ≤ c.toNat) :
    textStep tbl ⟨alph, false, off⟩ c = (mapGlyph alph c, ⟨.a0, false, off⟩) := by
  have hlow (d : Code) (hd : d.toNat < 6) : c ≠ d := by rintro rfl; omega
  have ha2 (d : Code) (hd : d.toNat < 8) : ¬ (c = d ∧ alph = .a2) := by
    rintro ⟨rfl, ha⟩
    exact absurd (h8 ha) (by omega)
  have h123 : ¬ (c = 1 ∨ c = 2 ∨ c = 3) :=
    not_or.2 ⟨hlow 1 (by decide), not_or.2 ⟨hlow 2 (by decide), hlow 3 (by decide)⟩⟩
  rw [textStep, if_neg Bool.false_ne_true, if_neg (hlow 0 (by decide)), if_neg h123,
    if_neg (hlow 4 (by decide)), if_neg (hlow 5 (by decide)), if_neg (ha2 7 (by decide)),
    if_neg (ha2 6 (by decide))]

end

/-- Settles O35: the equations of the loop. -/
theorem textLoopFollowsEachCase : Obligations.TextLoopFollowsEachCase := by
  unfold Obligations.TextLoopFollowsEachCase
  intro tbl alph off c cs
  refine ⟨decodeLoop_pending tbl alph off cs c, decodeLoop_space tbl alph off cs, fun h1 h3 => ?_,
    decodeLoop_shift1 tbl alph off cs, decodeLoop_shift2 tbl alph off cs,
    decodeLoop_newline tbl off cs, decodeLoop_ctrlGlyph tbl off cs, fun h6 h8 => ?_⟩
  · rw [decodeLoop_cons, textStep_abbreviation tbl h1 h3, List.nil_append]
  · obtain ⟨ch, hch⟩ := exists_alphabetTable_eq h6 h8
    refine ⟨ch, hch, ?_⟩
    rw [decodeLoop_cons, textStep_character tbl h6 h8, mapGlyph_of_entry hch, List.singleton_append]

/-- Settles O36, by induction on the shifts. -/
theorem trailingShiftsEmitNothing : Obligations.TrailingShiftsEmitNothing := by
  unfold Obligations.TrailingShiftsEmitNothing
  intro tbl alph off cs h
  induction cs generalizing alph with
  | nil => rfl
  | cons c cs ih =>
    obtain ⟨hc, hcs⟩ := List.forall_mem_cons.1 h
    rcases hc with rfl | rfl
    · rw [decodeLoop_shift1]; exact ih .a1 hcs
    · rw [decodeLoop_shift2]; exact ih .a2 hcs

/-! ## The stream-start escape -/

theorem append_setWidth_eq_ofNat (hi lo : Code) :
    ((hi ++ lo : BitVec 10).setWidth 16 : Word) = BitVec.ofNat 16 (32 * hi.toNat + lo.toNat) := by
  apply BitVec.eq_of_toNat_eq
  rw [BitVec.toNat_setWidth, BitVec.toNat_append, ← Nat.shiftLeft_add_eq_or_of_lt lo.isLt,
    Nat.shiftLeft_eq, Nat.mul_comm, BitVec.toNat_ofNat]

theorem decodeCodes_of_escape (tbl : List Text) (hi lo c : Code) (rest : List Code) :
    decodeCodes tbl (5 :: 6 :: hi :: lo :: c :: rest) =
      zsciiOut (BitVec.ofNat 16 (32 * hi.toNat + lo.toNat)) ++ decodeLoop tbl textStart (c :: rest) := by
  rw [decodeCodes, if_pos ⟨rfl, rfl⟩, append_setWidth_eq_ofNat]

theorem decodeCodes_of_not_escape {cs : List Code} (tbl : List Text)
    (h : cs.length < 5 ∨ cs[0]? ≠ some 5 ∨ cs[1]? ≠ some 6) :
    decodeCodes tbl cs = decodeLoop tbl textStart cs := by
  unfold decodeCodes
  split
  · next c0 c1 hi lo c4 rest =>
    refine if_neg ?_
    rintro ⟨rfl, rfl⟩
    rcases h with h | h | h
    · simp only [List.length_cons] at h; omega
    · exact h rfl
    · exact h rfl
  · rfl

/-- A stream that is not excluded is the escape. -/
theorem exists_escape_of_not {cs : List Code}
    (h : ¬ (cs.length < 5 ∨ cs[0]? ≠ some 5 ∨ cs[1]? ≠ some 6)) :
    ∃ hi lo c rest, cs = 5 :: 6 :: hi :: lo :: c :: rest := by
  simp only [not_or, not_lt, not_not] at h
  obtain ⟨hlen, h0, h1⟩ := h
  match cs, hlen with
  | c0 :: c1 :: hi :: lo :: c :: rest, _ =>
    obtain rfl : c0 = 5 := Option.some.inj h0
    obtain rfl : c1 = 6 := Option.some.inj h1
    exact ⟨hi, lo, c, rest, rfl⟩

/-- Settles O34: the escape is one case of DecodeCodes, and the pair elsewhere is a shift and CTRL_GLYPH. -/
theorem escapeOnlyAtStreamStart : Obligations.EscapeOnlyAtStreamStart := by
  unfold Obligations.EscapeOnlyAtStreamStart
  refine ⟨decodeCodes_of_escape, fun tbl cs => decodeCodes_of_not_escape tbl, ⟨rfl, rfl⟩,
    fun tbl alph off cs => ?_⟩
  rw [decodeLoop_shift2, decodeLoop_ctrlGlyph]

/-! ## Independence of the abbreviation table -/

/-- Only an abbreviation's index reads the table. -/
theorem textStep_ignores_table {m : TextMode} (hm : m.pending = false) (tbl tbl' : List Text) (c : Code) :
    textStep tbl m c = textStep tbl' m c := by
  have hp : ¬ m.pending = true := by rw [hm]; exact Bool.false_ne_true
  rw [textStep, textStep, if_neg hp, if_neg hp]

/-- Only the codes 1, 2 and 3 leave an abbreviation pending. -/
theorem textStep_not_pending {m : TextMode} {c : Code} (hm : m.pending = false)
    (hc : c = 0 ∨ 4 ≤ c.toNat) (tbl : List Text) : (textStep tbl m c).2.pending = false := by
  have h123 : ¬ (c = 1 ∨ c = 2 ∨ c = 3) := by bv_omega
  have hp : ¬ m.pending = true := by rw [hm]; exact Bool.false_ne_true
  rw [textStep, if_neg hp, if_neg h123]
  split_ifs
  all_goals exact hm

theorem decodeLoop_ignores_table {m : TextMode} {cs : List Code} (hm : m.pending = false)
    (hcs : ∀ c ∈ cs, c = 0 ∨ 4 ≤ c.toNat) (tbl tbl' : List Text) :
    decodeLoop tbl m cs = decodeLoop tbl' m cs := by
  induction cs generalizing m with
  | nil => rfl
  | cons c cs ih =>
    obtain ⟨hc, hcs⟩ := List.forall_mem_cons.1 hcs
    rw [decodeLoop_cons, decodeLoop_cons, textStep_ignores_table hm tbl tbl',
      ih (textStep_not_pending hm hc tbl') hcs]

/-- Settles O37: no turn of the loop reads the table, with the escape before it or without. -/
theorem abbreviationFreeTextIgnoresTable : Obligations.AbbreviationFreeTextIgnoresTable := by
  unfold Obligations.AbbreviationFreeTextIgnoresTable
  intro tbl tbl' cs hcs
  by_cases h : cs.length < 5 ∨ cs[0]? ≠ some 5 ∨ cs[1]? ≠ some 6
  · rw [decodeCodes_of_not_escape tbl h, decodeCodes_of_not_escape tbl' h,
      decodeLoop_ignores_table rfl hcs tbl tbl']
  · obtain ⟨hi, lo, c, rest, rfl⟩ := exists_escape_of_not h
    have hrest : ∀ d ∈ c :: rest, d = 0 ∨ 4 ≤ d.toNat := fun d hd =>
      hcs d (List.mem_cons_of_mem _ (List.mem_cons_of_mem _ (List.mem_cons_of_mem _
        (List.mem_cons_of_mem _ hd))))
    rw [decodeCodes_of_escape, decodeCodes_of_escape, decodeLoop_ignores_table rfl hrest tbl tbl']

end Sys2Proof.Machine
end

section
/-! PROOFS. The decimal form and the output instructions (spec/41_text.md R140, R144–R148). -/

namespace Sys2Proof.Machine

/-! ## Numbers and characters -/

/-- Enough fuel gives the library's decimal digits. -/
theorem digitsFuel_eq_toDigits {n k : Nat} (h : k ≤ n) : digitsFuel n k = Nat.toDigits 10 k := by
  induction n generalizing k with
  | zero => rw [Nat.le_zero.1 h]; rfl
  | succ n ih =>
    rw [digitsFuel, Nat.toDigits_eq_if (by decide)]
    split
    · rfl
    · rw [ih (by omega)]

theorem decimal_eq_toDigits (z : Int) :
    decimal z = if z < 0 then '-' :: Nat.toDigits 10 z.natAbs else Nat.toDigits 10 z.natAbs := by
  rw [decimal, digitsFuel_eq_toDigits le_rfl]

/-- Only the number 0 has a decimal form that begins with "0". -/
theorem eq_zero_of_head?_toDigits {k : Nat} (h : (Nat.toDigits 10 k).head? = some '0') : k = 0 := by
  induction k using Nat.strong_induction_on with
  | _ k ih =>
    rw [Nat.toDigits_eq_if (by decide)] at h
    split at h
    · exact Nat.digitChar_eq_zero.1 (Option.some.inj h)
    · next hk =>
      rw [List.head?_append_of_ne_nil _ Nat.toDigits_ne_nil] at h
      have := ih (k / 10) (by omega) h
      omega

theorem toNat_of_mem_toDigits {k : Nat} {c : Char} (h : c ∈ Nat.toDigits 10 k) :
    48 ≤ c.toNat ∧ c.toNat ≤ 57 := by
  have hd := Nat.isDigit_of_mem_toDigits (by decide) le_rfl h
  simpa [Char.isDigit, UInt32.le_iff_toNat_le] using hd

theorem isDecimal_decimal (z : Int) : IsDecimal z (decimal z) := by
  refine ⟨Nat.toDigits 10 z.natAbs, decimal_eq_toDigits z, Nat.toDigits_ne_nil,
    fun c => toNat_of_mem_toDigits, fun h => ?_, Nat.ofDigitChars_ten_toDigits⟩
  rw [eq_zero_of_head?_toDigits h, Nat.toDigits_zero]

theorem s16_eq_toInt (v : Word) : s16 v = v.toInt := by
  rw [s16, BitVec.toInt_eq_msb_cond, BitVec.msb_eq_getLsbD_last]
  rfl

theorem zsciiOut_of_ascii {v : Word} (h32 : 32 ≤ v.toNat) (h126 : v.toNat ≤ 126) :
    ∃ c : Char, zsciiOut v = [c] ∧ c.toNat = v.toNat := by
  refine ⟨Char.ofNat v.toNat, if_pos ⟨h32, h126⟩, ?_⟩
  rw [Char.toNat_ofNat, if_pos (.inl (by omega))]

/-! ## The instructions -/

section
variable {o : Operand} {s s1 : State} {v n : Word} {g : GameObject}

theorem execPrintNum_of_resolves (h : Resolves s o v s1) : exec (.printNum [o]) s =
    .next ((s1.emit (.print (decimal (s16 v)))).withPc (endOf (.printNum [o]) s)) := by
  rw [exec, execPrintNum]
  exact runHandler_of_ok (u := ()) (act_andThen_ok (operand1_of_resolves rfl h))

theorem execPrintChar_of_resolves (h : Resolves s o v s1) : exec (.printChar [o]) s =
    .next ((s1.emit (.print (zsciiOut v))).withPc (endOf (.printChar [o]) s)) := by
  rw [exec, execPrintChar]
  exact runHandler_of_ok (u := ()) (act_andThen_ok (operand1_of_resolves rfl h))

theorem execPrintObj_of_sees (h : Resolves s o n s1) (hg : SeesObject s1 n g) :
    exec (.printObj o) s =
      .next ((s1.emit (.print g.name)).withPc (endOf (.printObj o) s)) := by
  rw [exec, execPrintObj]
  exact runHandler_of_ok (u := ()) ((act_andThen_ok (operand1_of_resolves rfl h)).trans
    (act_andThen_ok (objRead_of_sees hg)))

/-- An object number above N is no object (R171). -/
theorem objRead_of_gt (h : s.objs.length < n.toNat) : objRead n s = .error (.invalidObject n) s := by
  have h0 : n ≠ 0 := by rintro rfl; exact absurd h (Nat.not_lt_zero _)
  have hnone : objectAt s.objs n = none := by
    rw [objectAt, if_neg h0]
    exact List.getElem?_eq_none (by omega)
  rw [objRead, hnone]

theorem execPrintObj_takesFault (h : Resolves s o n s1) (hn : s1.objs.length < n.toNat) :
    TakesFault (exec (.printObj o) s) (.printObj o) s (.invalidObject n) := by
  rw [exec, execPrintObj]
  exact runHandler_of_error ((act_andThen_ok (operand1_of_resolves rfl h)).trans
    (act_andThen_error (objRead_of_gt hn)))

theorem execPrint_of_packedText {cs : List Code} {e : Int}
    (h : PackedText s.mem (s.cur.pc + 1) cs e) :
    exec .print s = .next ((s.emit (.print (decodeCodes s.abbrevs.toList cs))).withPc e) := by
  have ht : decodeText (s.cur.pc + 1) s = .ok (decodeCodes s.abbrevs.toList cs, e) s :=
    decodeText_ok_iff.2 ⟨cs, Memory.codes_of_packedText h, rfl, rfl⟩
  rw [exec, execPrint]
  exact runHandler_of_ok (u := ()) (act_andThen_ok ht)

theorem print_begins : BeginsWith (fun inst => decodeText inst.stop) .print :=
  ⟨_, fun s => by rw [exec, execPrint]⟩

end

/-- Settles O39: the operand resolved, each instruction is one call of the sink. -/
theorem numberCharacterAndNewlineReachTheSink : Obligations.NumberCharacterAndNewlineReachTheSink := by
  unfold Obligations.NumberCharacterAndNewlineReachTheSink
  refine ⟨fun o s s1 v h => ⟨⟨decimal (s16 v), ?_, execPrintNum_of_resolves h⟩,
    execPrintChar_of_resolves h, zsciiOut_of_ascii⟩, execNewLine_eq⟩
  rw [s16_eq_toInt]
  exact isDecimal_decimal v.toInt

/-- Settles O33: the text lies at the end address, and is read to its end bit or out of the image. -/
theorem printEmitsDecodedText : Obligations.PrintEmitsDecodedText := by
  unfold Obligations.PrintEmitsDecodedText
  exact fun s => ⟨fun cs e => execPrint_of_packedText,
    fun e h => print_begins.takesFault (decodeText_error_of h)⟩

/-- Settles O40: the object is seen and its name emitted, or its number is above N. -/
theorem printObjEmitsName : Obligations.PrintObjEmitsName := by
  unfold Obligations.PrintObjEmitsName
  exact fun o s s1 n h => ⟨fun g => execPrintObj_of_sees h, execPrintObj_takesFault h⟩

end Sys2Proof.Machine
end

section
/-! PROOFS. The records of the ObjectTable: what a write of one and an insertion leave in it, and that every
step keeps the links inside the table (spec/42_objects.md R170, R171, R178–R180). -/

namespace Sys2Proof.Machine

/-! ## One record changed -/

section
variable {os : List GameObject} {o : Word} {f : GameObject → GameObject} {g : GameObject} {j : Nat}

theorem objectAt_of_ne_zero (h0 : o ≠ 0) : objectAt os o = os[o.toNat - 1]? := if_neg h0

/-- A number up to N is an object's, or the sentinel's. -/
theorem exists_objectAt_of_le (h : o.toNat ≤ os.length) : ∃ g, objectAt os o = some g := by
  by_cases h0 : o = 0
  · exact ⟨sentinel, if_pos h0⟩
  · have hpos : o.toNat ≠ 0 := mt toNat_eq_zero_iff.1 h0
    exact ⟨_, (objectAt_of_ne_zero h0).trans (List.getElem?_eq_getElem (by omega))⟩

theorem toNat_le_length_of_getElem? (h : os[o.toNat - 1]? = some g) : o.toNat ≤ os.length := by
  have := (List.getElem?_eq_some_iff.1 h).1
  omega

theorem modifyObject_getElem?_self (h0 : o ≠ 0) :
    (modifyObject os o f)[o.toNat - 1]? = os[o.toNat - 1]?.map f := by
  rw [modifyObject, if_neg h0, List.getElem?_modify_eq]
  rfl

theorem modifyObject_getElem?_ne (hj : j ≠ o.toNat - 1) : (modifyObject os o f)[j]? = os[j]? := by
  rw [modifyObject]
  split
  · rfl
  · exact List.getElem?_modify_ne f os hj.symm

theorem modifyObject_eq_set (h0 : o ≠ 0) (hg : os[o.toNat - 1]? = some g) :
    modifyObject os o f = os.set (o.toNat - 1) (f g) := by
  rw [modifyObject, if_neg h0, List.modify_eq_set_getElem?, hg]
  rfl

end

theorem GameObject.withAttr_getElem? (g : GameObject) {a : Word} (x : Bool) {j : Nat} (hj : j < 32) :
    (g.withAttr a x).attrs[j]? = if j = a.toNat then some x else g.attrs[j]? := by
  rw [GameObject.withAttr, Vector.getElem?_setIfInBounds]
  by_cases h : j = a.toNat
  · subst h
    rw [if_pos rfl, if_pos rfl, if_pos hj]
  · rw [if_neg (Ne.symm h), if_neg h]

/-! ## An insertion -/

section
variable {os : List GameObject} {o d : Word} {go gd : GameObject} {j : Nat}

theorem index_ne_of_ne (ho0 : o ≠ 0) (hd0 : d ≠ 0) (h : o ≠ d) : o.toNat - 1 ≠ d.toNat - 1 := by
  bv_omega

/-- The child that the insertion reads is the one d had before: its first assignment, of a parent, changes
no child, of o = d either. -/
theorem insertRecord_eq_of_getElem? (ho0 : o ≠ 0) (hd0 : d ≠ 0) (hd : os[d.toNat - 1]? = some gd) :
    insertRecord os o d = modifyObject (modifyObject (modifyObject os o fun g => { g with parent := d })
      o fun g => { g with sibling := gd.child }) d fun g => { g with child := o } := by
  have hc : ((objectAt (modifyObject os o fun g => { g with parent := d }) d).getD sentinel).child =
      gd.child := by
    rw [objectAt_of_ne_zero hd0]
    by_cases h : o = d
    · subst h
      rw [modifyObject_getElem?_self hd0, hd]
      rfl
    · rw [modifyObject_getElem?_ne (index_ne_of_ne ho0 hd0 h).symm, hd]
      rfl
  rw [insertRecord, hc]

/-- The record of an object inserted into another. -/
theorem insertRecord_getElem?_inserted (ho0 : o ≠ 0) (hd0 : d ≠ 0) (h : o ≠ d)
    (ho : os[o.toNat - 1]? = some go) (hd : os[d.toNat - 1]? = some gd) :
    (insertRecord os o d)[o.toNat - 1]? = some { go with parent := d, sibling := gd.child } := by
  rw [insertRecord_eq_of_getElem? ho0 hd0 hd, modifyObject_getElem?_ne (index_ne_of_ne ho0 hd0 h),
    modifyObject_getElem?_self ho0, modifyObject_getElem?_self ho0, ho]
  rfl

/-- The record of an object that another is inserted into. -/
theorem insertRecord_getElem?_parent (ho0 : o ≠ 0) (hd0 : d ≠ 0) (h : o ≠ d)
    (hd : os[d.toNat - 1]? = some gd) :
    (insertRecord os o d)[d.toNat - 1]? = some { gd with child := o } := by
  have hne := (index_ne_of_ne ho0 hd0 h).symm
  rw [insertRecord_eq_of_getElem? ho0 hd0 hd, modifyObject_getElem?_self hd0,
    modifyObject_getElem?_ne hne, modifyObject_getElem?_ne hne, hd]
  rfl

/-- The record of an object inserted into itself. -/
theorem insertRecord_getElem?_self (ho0 : o ≠ 0) (ho : os[o.toNat - 1]? = some go) :
    (insertRecord os o o)[o.toNat - 1]? =
      some { go with parent := o, sibling := go.child, child := o } := by
  rw [insertRecord_eq_of_getElem? ho0 ho0 ho, modifyObject_getElem?_self ho0,
    modifyObject_getElem?_self ho0, modifyObject_getElem?_self ho0, ho]
  rfl

theorem insertRecord_getElem?_ne (ho : j ≠ o.toNat - 1) (hd : j ≠ d.toNat - 1) :
    (insertRecord os o d)[j]? = os[j]? := by
  rw [insertRecord, modifyObject_getElem?_ne hd, modifyObject_getElem?_ne ho, modifyObject_getElem?_ne ho]

end

/-! ## Links inside the table -/

/-- The links of a record are 0 or the number of one of N objects (R170). -/
def LinksWithin (N : Nat) (g : GameObject) : Prop :=
  g.parent.toNat ≤ N ∧ g.sibling.toNat ≤ N ∧ g.child.toNat ≤ N

theorem State.linksInTable_iff {s : State} :
    s.linksInTable ↔ ∀ g ∈ s.objs, LinksWithin s.objs.length g := Iff.rfl

/-- A read of a number above N falls back to the sentinel, whose links are 0 (R171). -/
theorem linksWithin_objectAt {os : List GameObject} {N : Nat} (h : ∀ g ∈ os, LinksWithin N g) (d : Word) :
    LinksWithin N ((objectAt os d).getD sentinel) := by
  have hs : LinksWithin N sentinel := ⟨Nat.zero_le N, Nat.zero_le N, Nat.zero_le N⟩
  unfold objectAt
  split
  · exact hs
  · cases hg : os[d.toNat - 1]? with
    | none => exact hs
    | some g => exact h g (List.mem_of_getElem? hg)

/-- The insertion writes o, d and a child that stood in the table. -/
theorem linksWithin_insertRecord {os : List GameObject} {N : Nat} {o d : Word}
    (h : ∀ g ∈ os, LinksWithin N g) (ho : o.toNat ≤ N) (hd : d.toNat ≤ N) :
    ∀ g ∈ insertRecord os o d, LinksWithin N g := by
  have h1 : ∀ g ∈ modifyObject os o fun g => { g with parent := d }, LinksWithin N g :=
    forall_modifyObject h fun _ _ ⟨_, hs, hc⟩ => ⟨hd, hs, hc⟩
  obtain ⟨-, -, hchild⟩ := linksWithin_objectAt h1 d
  refine forall_modifyObject (forall_modifyObject h1 ?_) ?_
  · exact fun _ _ ⟨hp, _, hc⟩ => ⟨hp, hchild, hc⟩
  · exact fun _ _ ⟨hp, hs, _⟩ => ⟨hp, hs, ho⟩

theorem WritesVar.objs_eq {s t : State} {v x : Word} (h : WritesVar s v x t) : t.objs = s.objs := by
  rw [h.keeps.1]

theorem Returns.objs_eq {s t : State} {x : Word} (h : Returns s x t) : t.objs = s.objs := by
  obtain ⟨_, -, -, ht⟩ := h.keeps
  rw [ht]

/-- What an instruction that does not fault does to the ObjectTable: nothing, one flag written, or one
object inserted. -/
theorem Effect.objs_cases {i : Instr} {s t : State} (h : Effect i s t) :
    t.objs = s.objs ∨ (∃ n a x, t.objs = modifyObject s.objs n (·.withAttr a x)) ∨
      ∃ o d : Word, o.toNat ≤ s.objs.length ∧ d.toNat ≤ s.objs.length ∧
        t.objs = insertRecord s.objs o d := by
  cases h with
  | moves => exact .inl rfl
  | writes k v x u a hk hw => exact .inl hw.objs_eq
  | returns k x t hk hr => exact .inl hr.objs_eq
  | writesReturns k v x y u t hk hv hw hr => exact .inl (hr.objs_eq.trans hw.objs_eq)
  | enters => exact .inl rfl
  | emits => exact .inl rfl
  | flags k n a x => exact .inr (.inl ⟨n, a, x, rfl⟩)
  | inserts k o d hk ho hd => exact .inr (.inr ⟨o, d, ho, hd, rfl⟩)
  | quits => exact .inl rfl

theorem Effect.keeps_linksInTable {i : Instr} {s t : State} (h : Effect i s t)
    (hs : s.linksInTable) : t.linksInTable := by
  rw [State.linksInTable_iff] at hs ⊢
  obtain ho | ⟨n, a, x, ho⟩ | ⟨o, d, hn, hd, ho⟩ := h.objs_cases
  · rwa [ho]
  · rw [ho, modifyObject_length]
    exact forall_modifyObject hs fun _ _ hg => hg
  · rw [ho, insertRecord_length]
    exact linksWithin_insertRecord hs hn hd

/-- Settles O53: a step that does not fault is an effect, and of the effects only an insertion writes
links. -/
theorem stepsKeepObjectLinksInTable : Obligations.StepsKeepObjectLinksInTable := by
  unfold Obligations.StepsKeepObjectLinksInTable
  intro s t hs h hf
  obtain ⟨i, he⟩ := step_effect h hf
  exact he.keeps_linksInTable hs

/-! ## The instructions that write records -/

section
variable {i : Instr} {o1 o2 : Operand} {n a : Word} {x : Bool} {g : GameObject} {s s1 s2 : State}

/-- set_attr and clear_attr complete, by the flag they write. -/
theorem execWriteAttr_of_resolves (hi : exec i s = runHandler i (writeAttr x) s)
    (ho : i.shape.operands = [o1, o2]) (h1 : Resolves s o1 n s1) (h2 : Resolves s1 o2 a s2) (h0 : n ≠ 0)
    (hg : s2.objs[n.toNat - 1]? = some g) (ha : a.toNat < 32) :
    exec i s = .next ((s2.withObjs (s2.objs.set (n.toNat - 1) (g.withAttr a x))).withPc (endOf i s)) := by
  rw [← modifyObject_eq_set (f := (·.withAttr a x)) h0 hg]
  exact hi.trans <| runHandler_of_ok (u := ()) <| writeAttr_ok_iff.2
    ⟨o1, o2, n, a, s1, s2, ho, h1, h2, h0, toNat_le_length_of_getElem? hg, ha, rfl⟩

theorem objCheckWrite_of_le (h0 : n ≠ 0) (h : n.toNat ≤ s.objs.length) :
    objCheckWrite n s = .ok () s := objCheckWrite_ok_iff.2 ⟨h0, h, rfl⟩

theorem execInsertObj_of_resolves {form : Form2OP} {o d : Word} {go gd : GameObject}
    (h1 : Resolves s o1 o s1) (h2 : Resolves s1 o2 d s2) (ho0 : o ≠ 0) (hd0 : d ≠ 0)
    (ho : s2.objs[o.toNat - 1]? = some go) (hd : s2.objs[d.toNat - 1]? = some gd) :
    exec (.insertObj form [o1, o2]) s = .next
      ((s2.withObjs (insertRecord s2.objs o d)).withPc (endOf (.insertObj form [o1, o2]) s)) := by
  rw [exec, execInsertObj]
  refine runHandler_of_ok (u := ()) ?_
  have hco := objCheckWrite_of_le ho0 (toNat_le_length_of_getElem? ho)
  have hcd := objCheckWrite_of_le hd0 (toNat_le_length_of_getElem? hd)
  rw [act_andThen_ok (operands2_of_resolves rfl h1 h2), act_andThen_ok hco, act_andThen_ok hcd]
  rfl

end

/-- Settles O29: the record with its one flag written takes the place of the old one. -/
theorem setAndClearAttrWriteOneFlag : Obligations.SetAndClearAttrWriteOneFlag := by
  unfold Obligations.SetAndClearAttrWriteOneFlag
  intro form o1 o2 s s1 s2 n a g h1 h2 h0 hg ha x
  refine ⟨g.withAttr a x, fun j hj => g.withAttr_getElem? x hj, rfl, ?_, ?_⟩
  · rintro rfl
    exact execWriteAttr_of_resolves rfl rfl h1 h2 h0 hg ha
  · rintro rfl
    exact execWriteAttr_of_resolves rfl rfl h1 h2 h0 hg ha

/-- Settles O30: the instruction inserts, and the records are what the three assignments leave. -/
theorem insertObjDoesTheInsertHalf : Obligations.InsertObjDoesTheInsertHalf := by
  unfold Obligations.InsertObjDoesTheInsertHalf
  intro form o1 o2 s s1 s2 o d go gd h1 h2 ho0 hd0 ho hd
  refine ⟨insertRecord s2.objs o d, execInsertObj_of_resolves h1 h2 ho0 hd0 ho hd,
    insertRecord_length _ _ _, fun h => ?_, ?_, fun j => insertRecord_getElem?_ne⟩
  · exact ⟨insertRecord_getElem?_inserted ho0 hd0 h ho hd, insertRecord_getElem?_parent ho0 hd0 h hd⟩
  · rintro rfl
    exact insertRecord_getElem?_self ho0 ho

end Sys2Proof.Machine
end

section
/-! PROOFS. The checks of the object instructions: an object number is checked before a flag number
(spec/42_objects.md R171–R180, spec/90_conflicts.md C7). -/

namespace Sys2Proof.Machine

/-! ## The checks -/

theorem objCheckWrite_error_of {n : Word} {s : State} (h : n = 0 ∨ s.objs.length < n.toNat) :
    objCheckWrite n s = .error (.invalidObject n) s := if_pos h

theorem attrCheck_error_of {a : Word} {s : State} (h : 32 ≤ a.toNat) :
    attrCheck a s = .error (.invalidAttribute a) s := if_pos h

theorem exists_objRead_of_le {n : Word} {s : State} (h : n.toNat ≤ s.objs.length) :
    ∃ g, objRead n s = .ok g s := by
  obtain ⟨g, hg⟩ := exists_objectAt_of_le h
  exact ⟨g, objRead_ok_iff.2 ⟨hg, rfl⟩⟩

/-! ## Which checks a handler makes, and in which order -/

section
variable {α β γ : Type} {m : Inst → Act α} {c : α → Act β} {d : α → Act γ} {i : Instr} {s t u : State}
  {x : α} {y : β} {k : FaultKind}

/-- The instruction's handler begins with m, and checks what m gave by c. -/
def ChecksAfter (m : Inst → Act α) (c : α → Act β) (i : Instr) : Prop :=
  ∃ f : Inst → α → β → Act Unit, ∀ s, exec i s =
    runHandler i (fun inst => andThen (m inst) fun x => andThen (c x) (f inst x)) s

/-- The instruction's handler begins with m, and checks what m gave by c and then by d. -/
def ChecksInTurn (m : Inst → Act α) (c : α → Act β) (d : α → Act γ) (i : Instr) : Prop :=
  ∃ f : Inst → α → β → γ → Act Unit, ∀ s, exec i s = runHandler i
    (fun inst => andThen (m inst) fun x => andThen (c x) fun y => andThen (d x) (f inst x y)) s

theorem ChecksInTurn.first (h : ChecksInTurn m c d i) : ChecksAfter m c i := by
  obtain ⟨f, hf⟩ := h
  exact ⟨_, hf⟩

theorem ChecksAfter.takesFault (h : ChecksAfter m c i) (hm : m (i.inst s.cur.pc) s = .ok x t)
    (hc : c x t = .error k u) : TakesFault (exec i s) i s k := by
  obtain ⟨f, hf⟩ := h
  rw [hf]
  exact runHandler_of_error ((act_andThen_ok hm).trans (act_andThen_error hc))

/-- The second check is reached only when the first has passed. -/
theorem ChecksInTurn.takesFault (h : ChecksInTurn m c d i) (hm : m (i.inst s.cur.pc) s = .ok x t)
    (hc : c x t = .ok y t) (hd : d x t = .error k u) : TakesFault (exec i s) i s k := by
  obtain ⟨f, hf⟩ := h
  rw [hf]
  exact runHandler_of_error
    ((act_andThen_ok hm).trans ((act_andThen_ok hc).trans (act_andThen_error hd)))

end

theorem links_check (o : Operand) : ∀ i ∈ [Instr.getSibling o, .getChild o, .getParent o],
    ChecksAfter operand1 objRead i ∧ i.shape.operands = [o] := by
  intro i hi
  simp only [List.mem_cons, List.not_mem_nil, or_false] at hi
  rcases hi with rfl | rfl | rfl
  · exact ⟨⟨_, fun s => by rw [exec, execGetSibling]; rfl⟩, rfl⟩
  · exact ⟨⟨_, fun s => by rw [exec, execGetChild]; rfl⟩, rfl⟩
  · exact ⟨⟨_, fun s => by rw [exec, execGetParent]⟩, rfl⟩

theorem jin_check (form : Form2OP) (ops : List Operand) :
    ChecksAfter operands2 (fun v => objRead v.1) (.jin form ops) :=
  ⟨_, fun s => by rw [exec, execJin]⟩

theorem testAttr_checks (form : Form2OP) (ops : List Operand) :
    ChecksInTurn operands2 (fun v => objRead v.1) (fun v => attrCheck v.2) (.testAttr form ops) :=
  ⟨_, fun s => by rw [exec, execTestAttr]⟩

theorem setAttr_checks (form : Form2OP) (ops : List Operand) :
    ChecksInTurn operands2 (fun v => objCheckWrite v.1) (fun v => attrCheck v.2) (.setAttr form ops) :=
  ⟨_, fun s => by rw [exec, execSetAttr]; rfl⟩

theorem clearAttr_checks (form : Form2OP) (ops : List Operand) :
    ChecksInTurn operands2 (fun v => objCheckWrite v.1) (fun v => attrCheck v.2) (.clearAttr form ops) :=
  ⟨_, fun s => by rw [exec, execClearAttr]; rfl⟩

theorem insertObj_checks (form : Form2OP) (ops : List Operand) :
    ChecksInTurn operands2 (fun v => objCheckWrite v.1) (fun v => objCheckWrite v.2)
      (.insertObj form ops) :=
  ⟨_, fun s => by rw [exec, execInsertObj]⟩

/-- The instructions that write object n's record refuse object 0 and a number above N first. -/
theorem objectWriters_check (form : Form2OP) (ops : List Operand) :
    ∀ i ∈ [Instr.setAttr form ops, .clearAttr form ops, .insertObj form ops],
      ChecksAfter operands2 (fun v => objCheckWrite v.1) i ∧ i.shape.operands = ops := by
  intro i hi
  simp only [List.mem_cons, List.not_mem_nil, or_false] at hi
  rcases hi with rfl | rfl | rfl
  · exact ⟨(setAttr_checks form ops).first, rfl⟩
  · exact ⟨(clearAttr_checks form ops).first, rfl⟩
  · exact ⟨(insertObj_checks form ops).first, rfl⟩

/-- Settles O31: each handler resolves its operands and checks the object before it checks the flag number. -/
theorem invalidObjectBeforeInvalidAttribute : Obligations.InvalidObjectBeforeInvalidAttribute := by
  unfold Obligations.InvalidObjectBeforeInvalidAttribute
  refine ⟨fun o s s1 n hr hn i hi => ?_, fun form o1 o2 s s1 s2 n a h1 h2 => ?_⟩
  · obtain ⟨hc, ho⟩ := links_check o i hi
    exact hc.takesFault (operand1_of_resolves ho hr) (objRead_of_gt hn)
  have hv (i : Instr) (ho : i.shape.operands = [o1, o2]) :
      operands2 (i.inst s.cur.pc) s = .ok (n, a) s2 := operands2_of_resolves ho h1 h2
  have hwrite (hn : n = 0 ∨ s2.objs.length < n.toNat) :
      ∀ i ∈ [Instr.setAttr form [o1, o2], .clearAttr form [o1, o2], .insertObj form [o1, o2]],
        TakesFault (exec i s) i s (.invalidObject n) := by
    intro i hi
    obtain ⟨hc, ho⟩ := objectWriters_check form [o1, o2] i hi
    exact hc.takesFault (hv i ho) (objCheckWrite_error_of hn)
  refine ⟨fun hn i hi => ?_, fun hn => hwrite (.inl hn), fun h0 hn ha => ?_, fun hn ha => ?_,
    fun h0 hn ha i hi => ?_⟩
  · have hread := objRead_of_gt hn
    simp only [List.mem_cons, List.not_mem_nil, or_false] at hi
    rcases hi with rfl | rfl | rfl | rfl | rfl
    · exact (testAttr_checks form _).first.takesFault (hv _ rfl) hread
    · exact hwrite (.inr hn) _ (by simp)
    · exact hwrite (.inr hn) _ (by simp)
    · exact hwrite (.inr hn) _ (by simp)
    · exact (jin_check form _).takesFault (hv _ rfl) hread
  · exact (insertObj_checks form _).takesFault (hv _ rfl) (objCheckWrite_of_le h0 hn)
      (objCheckWrite_error_of ha)
  · obtain ⟨g, hg⟩ := exists_objRead_of_le hn
    exact (testAttr_checks form _).takesFault (hv _ rfl) hg (attrCheck_error_of ha)
  · have hobj := objCheckWrite_of_le h0 hn
    simp only [List.mem_cons, List.not_mem_nil, or_false] at hi
    rcases hi with rfl | rfl
    · exact (setAttr_checks form _).takesFault (hv _ rfl) hobj (attrCheck_error_of ha)
    · exact (clearAttr_checks form _).takesFault (hv _ rfl) hobj (attrCheck_error_of ha)

end Sys2Proof.Machine
end

section
/-! PROOFS. How a run ends: which next states are halted, and why (spec/43_frames_calls.md R209,
spec/60_exceptions.md R261, R266, R267, R273). -/

namespace Sys2Proof

open Laws.KeyTable

/-- Only 0xBA has the 0OP form and the opcode number of quit (R71, R74, R83). -/
theorem eq_0xBA_of_short {b : Byte} (hf : opcodeForm b = .short .omitted)
    (hn : (b.extractLsb' 0 4).setWidth 5 = 10#5) : b = 0xBA := by
  revert b
  decide +kernel

theorem decode_0xBA (rest : List Byte) : decode (0xBA :: rest) = .ok .quit := rfl

/-- Bytes decode to quit exactly when the first is 0xBA: the key 0OP:10 comes from no other layout. -/
theorem decode_quit_iff {bs : List Byte} : decode bs = .ok .quit ↔ bs.head? = some 0xBA := by
  constructor
  · intro h
    obtain ⟨b, hd, ts, f, ops, more, hl, rfl, hk, hi⟩ := decode_ok_iff.1 h
    obtain ⟨hfits, -⟩ := hl.gives hk
    have hkey : f ops = .zero 10 := by rw [← shape_ofShape hfits, ← hi]; rfl
    cases hl with
    | zero hf =>
      rw [eq_0xBA_of_short hf (Shape.zero.inj hkey)]
      rfl
    | extended | long | one | variable2OP | variableVAR => cases hkey
  · intro h
    obtain ⟨rest, rfl⟩ := List.head?_eq_some_iff.1 h
    exact decode_0xBA rest

end Sys2Proof

namespace Sys2Proof.Machine

theorem State.fetch_quit_iff {s : State} : s.fetch = .ok .quit ↔ s.mem.readByte s.cur.pc = some 0xBA := by
  rw [State.fetch, decode_quit_iff, State.fetchBytes_head?]

/-- What an instruction does to the status registers: it keeps STATUS and HALT_REASON, or it is quit and
halts normally, or it takes a fault. -/
theorem exec_status_cases {i : Instr} {s t : State} (h : exec i s = .next t) :
    (t.status = s.status ∧ t.haltReason = s.haltReason) ∨
      (t = s.haltNormally s.cur.pc ∧ i = .quit) ∨ FaultOf i s t := by
  by_cases hf : FaultOf i s t
  · exact .inr (.inr hf)
  obtain ⟨_, _, _, rfl⟩ | ⟨_, _, rfl, -⟩ | ⟨_, _, rfl, -⟩ | hq := (exec_effect h hf).parts
  · exact .inl ⟨rfl, rfl⟩
  · exact .inl ⟨rfl, rfl⟩
  · exact .inl ⟨rfl, rfl⟩
  · exact .inr (.inl hq)

/-- The end of a run in the next state t of s: halted exactly with a reason, which is Normal exactly when q
holds, and DIAG_PC is then the address s fetches at. -/
def EndsNormallyIff (q : Prop) (s t : State) : Prop :=
  (t.haltReason = .normal ↔ q) ∧ (t.status = .halted ↔ t.haltReason ≠ .none) ∧
    (t.haltReason ≠ .none → t.diagPc = s.cur.pc)

/-- Taking a fault at the pc ends the run, and not normally (R261). -/
theorem endsNormallyIff_takeFault {q : Prop} {s u : State} (hq : ¬ q) (k : FaultKind)
    (b : Option Byte) (c : Option OpClass) (n : Option (BitVec 5)) :
    EndsNormallyIff q s (u.takeFault k s.cur.pc b c n) :=
  ⟨⟨nofun, fun h => absurd h hq⟩, ⟨nofun, fun _ => rfl⟩, fun _ => rfl⟩

/-- An instruction of a running block ends the run normally exactly when it is quit. -/
theorem exec_endsNormallyIff_quit {i : Instr} {s t : State} (hs : s.statusAgrees)
    (hr : s.status = .running) (h : exec i s = .next t) : EndsNormallyIff (i = .quit) s t := by
  have hnone : s.haltReason = .none := hs.1 hr
  have hquit (hi : i = .quit) : t.haltReason = .normal := by
    subst hi
    cases (execQuit_eq s).symm.trans h
    rfl
  obtain ⟨hst, hre⟩ | ⟨rfl, hi⟩ | ⟨k, u, rfl⟩ := exec_status_cases h
  · rw [hre, hnone] at hquit
    unfold EndsNormallyIff
    rw [hst, hre, hr, hnone]
    exact ⟨⟨nofun, hquit⟩, ⟨nofun, fun h => absurd rfl h⟩, fun h => absurd rfl h⟩
  · exact ⟨⟨fun _ => hi, hquit⟩, ⟨nofun, fun _ => rfl⟩, fun _ => rfl⟩
  · exact endsNormallyIff_takeFault (fun hi => HaltReason.noConfusion (hquit hi)) ..

/-- A step ends the run normally exactly when the byte at the pc is that of quit. -/
theorem step_endsNormallyIff_0xBA {s t : State} (hs : s.statusAgrees) (h : step s = .next t) :
    EndsNormallyIff (s.mem.readByte s.cur.pc = some 0xBA) s t := by
  obtain ⟨hr, -⟩ := step_cases h
  rw [← State.fetch_quit_iff]
  cases hf : s.fetch with
  | ok i =>
    rw [step_of_fetch_ok hr hf] at h
    rw [Except.ok.injEq]
    exact exec_endsNormallyIff_quit hs hr h
  | error e =>
    cases (step_of_fetch_error hr hf).symm.trans h
    cases e
    exact endsNormallyIff_takeFault nofun ..

/-- Settles O55: a running block has no reason yet, and a next state gets one from quit or from a fault, of
the instruction or of the fetch. -/
theorem onlyQuitEndsARunNormally : Obligations.OnlyQuitEndsARunNormally := by
  unfold Obligations.OnlyQuitEndsARunNormally
  exact ⟨fun i s t => exec_endsNormallyIff_quit, fun s t => step_endsNormallyIff_0xBA⟩

/-- Settles O26: the handler of quit is the normal halt at the instruction's start. -/
theorem quitHaltsAndKeepsTheRest : Obligations.QuitHaltsAndKeepsTheRest := by
  unfold Obligations.QuitHaltsAndKeepsTheRest
  exact execQuit_eq

end Sys2Proof.Machine
end

section
/-! PROOFS. The calls that complete: the new frame of a routine, and the call to nothing
(spec/43_frames_calls.md R200–R203). -/

namespace Sys2Proof.Machine

/-- Words that can all be read are read in order. -/
theorem Memory.readWords_of_readable {m : Memory} {n : Nat} {a : Int} {d : Nat → Word}
    (h : ∀ j : Nat, j < n → m.readWord (a + 2 * j) = some (d j)) :
    m.readWords n a = .ok ((List.range n).map d) := by
  induction n generalizing a d with
  | zero => rfl
  | succ n ih =>
    have h0 : m.readWord a = some (d 0) := by simpa using h 0 n.succ_pos
    have hs (j : Nat) (hj : j < n) : m.readWord (a + 2 + 2 * j) = some (d (j + 1)) := by
      rw [show a + 2 + 2 * (j : Int) = a + 2 * ((j + 1 : Nat) : Int) by push_cast; ring]
      exact h (j + 1) (Nat.succ_lt_succ hj)
    rw [Memory.readWords, h0, ih hs, List.range_succ_eq_map, List.map_cons, List.map_map]
    rfl

/-- A slot of a new frame: the argument or else the default, up to the number of defaults (R201, R203). -/
theorem bindLocals_getElem? (n : Nat) (d : Nat → Word) (args : List Word) {j : Nat} (hj : j < 15) :
    (bindLocals ((List.range n).map d) args)[j]? =
      some (if j < n then some (args.getD j (d j)) else none) := by
  rw [bindLocals, Vector.getElem?_eq_getElem hj, Vector.getElem_ofFn, List.getElem?_map]
  split
  · next h => rw [List.getElem?_range h]; rfl
  · next h => rw [List.getElem?_eq_none (List.length_range.trans_le (Nat.le_of_not_lt h))]; rfl

/-- A call whose operands are resolved completes as what follows them does. -/
theorem execCall_of_resolves {o : Operand} {os : List Operand} {s s1 t : State} {r : Word}
    {args : List Word} (hl : os.length ≤ 3) (ho : ResolvesAll s (o :: os) (r :: args) s1)
    (h : (if r = 0 then callNothing (endOf (.call (o :: os)) s)
      else enterRoutine r args (endOf (.call (o :: os)) s)) s1 = .ok () t) :
    exec (.call (o :: os)) s = .next t := by
  have hv : operandsCall (Instr.inst (.call (o :: os)) s.cur.pc) s = .ok (r, args) s1 :=
    operandsCall_ok_iff.2 ⟨o, os, rfl, hl, ho⟩
  rw [exec, execCall]
  exact runHandler_of_ok ((act_andThen_ok hv).trans h)

/-- Settles O22: the routine's entry passes its checks, and its frame binds the words the image holds. -/
theorem callEntersRoutine : Obligations.CallEntersRoutine := by
  unfold Obligations.CallEntersRoutine
  intro o os s s1 r args count d hl ho hr hc h15 hdepth hd
  have hw : s1.mem.readWords count.toNat (unpack r + 1) = .ok ((List.range count.toNat).map d) :=
    Memory.readWords_of_readable hd
  have henter : enterRoutine r args (endOf (.call (o :: os)) s) s1 = .ok () _ :=
    enterRoutine_ok_iff.2 ⟨count, _, hc, h15, hdepth, hw, rfl⟩
  refine ⟨⟨unpack r + 1 + 2 * count.toNat, bindLocals ((List.range count.toNat).map d) args, []⟩,
    ?_, rfl, rfl, ?_⟩
  · exact execCall_of_resolves hl ho (by rwa [if_neg hr])
  · intro j hj
    exact bindLocals_getElem? count.toNat d args hj

/-- Settles O23: the routine operand 0 leads to the store of 0. -/
theorem callOfZeroStoresZero : Obligations.CallOfZeroStoresZero := by
  unfold Obligations.CallOfZeroStoresZero
  intro o os s s1 t args hl ho hs
  refine execCall_of_resolves hl ho ?_
  rw [if_pos rfl]
  exact callNothing_ok_iff.2 ⟨t, hs, rfl⟩

end Sys2Proof.Machine
end

section
/-! PROOFS. The instructions that name a variable by value: store, inc and dec
(spec/44_variables_arith.md R230–R233). -/

namespace Sys2Proof.Machine

theorem ofNat_toNat_succ (x : Word) : BitVec.ofNat 16 (x.toNat + 1) = x + 1 := by
  bv_omega

theorem ofInt_toNat_pred (x : Word) : BitVec.ofInt 16 ((x.toNat : Int) - 1) = x - 1 :=
  ofInt_toNat_sub x 1

section
variable {i : Instr} {f : Word → Word} {form : Form2OP} {o o2 : Operand} {v x : Word}
  {s s1 s2 t : State} {k : FaultKind}

/-! ## store -/

theorem store_writes (form : Form2OP) (ops : List Operand) :
    ChecksAfter operands2 (fun v => writeVar v.1 v.2) (.store form ops) :=
  ⟨_, fun s => by rw [exec, execStore]⟩

theorem execStore_of_writesVar (h1 : Resolves s o v s1) (h2 : Resolves s1 o2 x s2)
    (hw : WritesVar s2 v x t) :
    exec (.store form [o, o2]) s = .next (t.withPc (endOf (.store form [o, o2]) s)) := by
  have hwrite : writeVar v x s2 = .ok () t := writeVar_ok_iff.2 hw
  rw [exec, execStore]
  exact runHandler_of_ok (u := ()) ((act_andThen_ok (operands2_of_resolves rfl h1 h2)).trans
    (act_andThen_ok hwrite))

theorem execStore_takesFault (h1 : Resolves s o v s1) (h2 : Resolves s1 o2 x s2)
    (hw : WriteFails s2 v k) :
    TakesFault (exec (.store form [o, o2]) s) (.store form [o, o2]) s k :=
  (store_writes form [o, o2]).takesFault (operands2_of_resolves rfl h1 h2) (writeVar_error_of hw)

/-! ## inc and dec, by the function they change the variable by -/

theorem execChange_of_writesVar (hi : exec i s = runHandler i (changeVariable f) s)
    (ho : i.shape.operands = [o]) (h : Resolves s o v s1) (hr : ReadsVar s1 v x s2)
    (hw : WritesVar s2 v (f x) t) : exec i s = .next (t.withPc (endOf i s)) :=
  hi.trans <| runHandler_of_ok (u := ()) <|
    changeVariable_ok_iff.2 ⟨o, v, x, s1, s2, t, ho, h, hr, hw, rfl⟩

/-- The variable is read before it is written, and either may fail, whatever the function gives. -/
theorem execChange_takesFault (hi : exec i s = runHandler i (changeVariable f) s)
    (ho : i.shape.operands = [o]) (h : Resolves s o v s1)
    (hf : ReadFails s1 v k ∨ ∃ x s2, ReadsVar s1 v x s2 ∧ WriteFails s2 v k) :
    TakesFault (exec i s) i s k := by
  have hv : operand1 (i.inst s.cur.pc) s = .ok v s1 := operand1_of_resolves ho h
  rw [hi]
  obtain hr | ⟨x, s2, hr, hw⟩ := hf
  · exact runHandler_of_error ((act_andThen_ok hv).trans (act_andThen_error (readVar_error_of hr)))
  · exact runHandler_of_error ((act_andThen_ok hv).trans
      ((act_andThen_ok (readVar_ok_iff.2 hr)).trans (act_andThen_error (writeVar_error_of hw))))

end

/-- Settles O21: store writes what it resolved; inc and dec read, then write the word one up or one down. -/
theorem variableInstructionsWriteByReference : Obligations.VariableInstructionsWriteByReference := by
  unfold Obligations.VariableInstructionsWriteByReference
  intro o s s1 v h
  refine ⟨fun form o2 x s2 h2 => ⟨fun t hw => ?_, fun k hw => ?_⟩,
    fun x s2 t hr => ⟨fun hw => ?_, fun hw => ?_⟩, fun k hf => ⟨?_, ?_⟩⟩
  · exact execStore_of_writesVar h h2 hw
  · exact execStore_takesFault h h2 hw
  · rw [ofNat_toNat_succ] at hw
    exact execChange_of_writesVar rfl rfl h hr hw
  · rw [ofInt_toNat_pred] at hw
    exact execChange_of_writesVar rfl rfl h hr hw
  · exact execChange_takesFault rfl rfl h hf
  · exact execChange_takesFault rfl rfl h hf

end Sys2Proof.Machine
end

section
/-! PROOFS. The instructions that return, and the branch that returns from the initial frame
(spec/43_frames_calls.md R204–R208). -/

namespace Sys2Proof.Machine

/-- Operands pop the evaluation stack of the current frame and leave the frames under it. -/
theorem Resolves.callers_eq {s t : State} {o : Operand} {x : Word} (h : Resolves s o x t) :
    t.callers = s.callers := by
  obtain ⟨_, -, rfl⟩ := h.pops
  rfl

/-- `ret` does what the return of its operand's value does. -/
theorem execRet_eq_return {o : Operand} {x : Word} {s s1 : State} (h : Resolves s o x s1) :
    exec (.ret o) s = runHandler (.ret o) (fun _ _ => returnWith x s1) s := by
  rw [exec, execRet, runHandler, act_andThen_ok (operand1_of_resolves rfl h)]
  rfl

section
variable {i : Instr} {x : Word} {s s1 t : State} {k : FaultKind}

/-- An instruction that does what a return does completes as the return does. -/
theorem next_of_returns (hi : exec i s = runHandler i (fun _ _ => returnWith x s1) s)
    (h : Returns s1 x t) : exec i s = .next t :=
  hi.trans (runHandler_of_ok (u := ()) (returnWith_ok_iff.2 h))

/-- An instruction that does what a return does fails as the return does. -/
theorem takesFault_of_returnFails (hi : exec i s = runHandler i (fun _ _ => returnWith x s1) s)
    (h : ReturnFails s1 k) : TakesFault (exec i s) i s k := by
  obtain ⟨u, hu⟩ := returnWith_error_of (x := x) h
  rw [hi]
  exact runHandler_of_error hu

end

/-- Settles O25: each of the three is a return, and a branch of offset 0 or 1 is one too; with no caller it
fails, and operands leave the callers as they are. -/
theorem returnInstructionsReturn : Obligations.ReturnInstructionsReturn := by
  unfold Obligations.ReturnInstructionsReturn
  refine ⟨fun o s s1 x h => ?_, fun s t => ?_, fun form o1 o2 a b g s s1 s2 off after hc h1 h2 hg hs ho => ?_⟩
  · have hret := execRet_eq_return h
    refine ⟨fun t => next_of_returns hret, fun hc => ?_, fun k => takesFault_of_returnFails hret⟩
    exact takesFault_of_returnFails hret (.initial (h.callers_eq.trans hc))
  · have htrue : exec .rtrue s = runHandler .rtrue (fun _ _ => returnWith 1 s) s := rfl
    have hfalse : exec .rfalse s = runHandler .rfalse (fun _ _ => returnWith 0 s) s := rfl
    have hfails (k : FaultKind) (h : ReturnFails s k) :
        TakesFault (exec .rtrue s) .rtrue s k ∧ TakesFault (exec .rfalse s) .rfalse s k :=
      ⟨takesFault_of_returnFails htrue h, takesFault_of_returnFails hfalse h⟩
    exact ⟨next_of_returns htrue, next_of_returns hfalse, fun hc => hfails _ (.initial hc), hfails⟩
  · have hc2 : s2.callers = [] := h2.callers_eq.trans (h1.callers_eq.trans hc)
    have hjin := execJin_eq_branch (form := form) (operands2_of_resolves rfl h1 h2) hg
    exact takesFault_of_branchFails hjin (.returns off after _ hs ho (.initial hc2))

end Sys2Proof.Machine
end

section
/-! PROOFS. A reset that fails (spec/70_reset_and_hazards.md R290–R296): when each load answers, in the terms
of the claims, and what Reset makes of the first that does not. -/

namespace Sys2Proof.Machine

section
variable {m : Memory} {n : Nat} {a : Int} {h : Header}

/-! ## The header (R291) -/

/-- What the latched header is, and when there is one (R291, spec/20_memory.md R59). -/
theorem latchHeader_some_iff : latchHeader m = some h ↔
    m.readByte 0x00 = some h.version ∧ m.readWord 0x06 = some h.initPc ∧ m.readWord 0x08 = some h.dict ∧
      m.readWord 0x0A = some h.objTab ∧ m.readWord 0x0C = some h.globalsTab ∧
      m.readWord 0x18 = some h.abbrevTab := by
  simp only [latchHeader, Option.bind_eq_bind, Option.bind_eq_some_iff, Option.pure_def, Option.some.injEq]
  constructor
  · rintro ⟨v, hv, pc, hpc, di, hdi, ob, hob, gl, hgl, ab, hab, rfl⟩
    exact ⟨hv, hpc, hdi, hob, hgl, hab⟩
  · rintro ⟨hv, hpc, hdi, hob, hgl, hab⟩
    exact ⟨_, hv, _, hpc, _, hdi, _, hob, _, hgl, _, hab, rfl⟩

theorem Memory.readWord_of_bounds (h0 : 0 ≤ a) (hs : a + 1 < m.size) : ∃ w, m.readWord a = some w :=
  Option.ne_none_iff_exists'.1 (mt Memory.readWord_none_iff.1 (by omega))

/-- The header is latched from an image of its length or longer; its last word ends there. -/
theorem exists_latchHeader_iff : (∃ h, latchHeader m = some h) ↔ 0x1A ≤ m.size := by
  simp only [latchHeader_some_iff]
  constructor
  · rintro ⟨h, -, -, -, -, -, hab⟩
    have := (Memory.readWord_bounds hab).2
    omega
  · intro hs
    have word (k : Int) (h0 : 0 ≤ k) (hk : k ≤ 0x18) : ∃ w, m.readWord k = some w :=
      Memory.readWord_of_bounds h0 (by omega)
    obtain ⟨v, hv⟩ := Memory.readByte_of_bounds (m := m) (a := 0) le_rfl (by omega)
    obtain ⟨pc, hpc⟩ := word 0x06 (by decide) (by decide)
    obtain ⟨di, hdi⟩ := word 0x08 (by decide) (by decide)
    obtain ⟨ob, hob⟩ := word 0x0A (by decide) (by decide)
    obtain ⟨gl, hgl⟩ := word 0x0C (by decide) (by decide)
    obtain ⟨ab, hab⟩ := word 0x18 (by decide) le_rfl
    exact ⟨⟨v, pc, di, ob, gl, ab⟩, hv, hpc, hdi, hob, hgl, hab⟩

/-! ## The tables of words (R292, R293) -/

/-- What holds of n + 1 words from an address on holds of the first and of the n after it. -/
theorem forall_words_succ {P : Int → Prop} :
    (∀ j : Nat, j < n + 1 → P (a + 2 * j)) ↔ P a ∧ ∀ j : Nat, j < n → P (a + 2 + 2 * j) := by
  have hs (j : Nat) : a + 2 * ((j + 1 : Nat) : Int) = a + 2 + 2 * j := by push_cast; ring
  rw [Nat.forall_lt_succ_left]
  simp only [hs, Nat.cast_zero, mul_zero, add_zero]

theorem exists_toVector_iff {α : Type} {l : List α} : (∃ v, toVector n l = some v) ↔ l.length = n := by
  unfold toVector
  split
  · next hl => exact iff_of_true ⟨⟨l.toArray, by simpa using hl⟩, rfl⟩ hl
  · next hl => exact iff_of_false nofun hl

/-- Words that are read are as many as asked for, and each can be read. -/
theorem Memory.readWords_ok {ws : List Word} (hr : m.readWords n a = .ok ws) :
    ws.length = n ∧ ∀ j : Nat, j < n → ∃ w, m.readWord (a + 2 * j) = some w := by
  induction n generalizing a ws with
  | zero => cases hr; exact ⟨rfl, nofun⟩
  | succ n ih =>
    rw [Memory.readWords] at hr
    cases hw : m.readWord a with
    | none => rw [hw] at hr; cases hr
    | some w =>
      cases hrest : m.readWords n (a + 2) with
      | error b => rw [hw, hrest] at hr; cases hr
      | ok rest =>
        rw [hw, hrest] at hr
        cases hr
        obtain ⟨hl, hread⟩ := ih hrest
        exact ⟨congrArg (· + 1) hl,
          (forall_words_succ (P := (∃ w, m.readWord · = some w))).2 ⟨⟨w, hw⟩, hread⟩⟩

/-- The globals load exactly when each of their words can be read (R292). -/
theorem exists_loadGlobals_iff {table : Word} : (∃ g, loadGlobals m table = some g) ↔
    ∀ i : Nat, i < 240 → ∃ w, m.readWord ((table.toNat : Int) + 2 * i) = some w := by
  unfold loadGlobals
  constructor
  · rintro ⟨g, hg⟩
    split at hg
    · next ws hws => exact (Memory.readWords_ok hws).2
    · cases hg
  · intro hread
    choose! d hd using hread
    rw [Memory.readWords_of_readable hd]
    exact exists_toVector_iff.2 (by rw [List.length_map, List.length_range])

/-! ## The abbreviation strings (R293, spec/41_text.md R142, R143) -/

/-- Codes that are read are those of a terminated string. -/
theorem packedText_of_codesFuel {p e : Int} {cs : List Code} (hc : codesFuel m n p = .ok (cs, e)) :
    PackedText m p cs e := by
  induction n generalizing p cs e with
  | zero => cases hc
  | succ n ih =>
    cases hw : m.readWord p with
    | none => rw [codesFuel, hw] at hc; cases hc
    | some w =>
      cases h15 : w.getLsbD 15 with
      | true =>
        rw [codesFuel_last hw h15] at hc
        cases hc
        exact .last p w hw h15
      | false =>
        rw [codesFuel_more hw h15] at hc
        cases hr : codesFuel m n (p + 2) with
        | error b => rw [hr] at hc; cases hc
        | ok r =>
          rw [hr] at hc
          cases hc
          exact .more p w _ _ hw h15 (ih hr)

theorem exists_loadEntry_iff {p : Word} : (∃ t, loadEntry m p = some t) ↔
    ∃ cs e, PackedText m (2 * (p.toNat : Int)) cs e := by
  unfold loadEntry
  constructor
  · rintro ⟨t, ht⟩
    split at ht
    · next r hr => exact ⟨r.1, r.2, packedText_of_codesFuel hr⟩
    · cases ht
  · rintro ⟨cs, e, hp⟩
    rw [unpack, Memory.codes_of_packedText hp]
    exact ⟨_, rfl⟩

/-- The entry at an address can be read, and leads to a terminated string. -/
def EntryReadable (m : Memory) (a : Int) : Prop :=
  ∃ (p : Word) (cs : List Code) (e : Int), m.readWord a = some p ∧ PackedText m (2 * (p.toNat : Int)) cs e

theorem entryReadable_iff :
    EntryReadable m a ↔ ∃ p t, m.readWord a = some p ∧ loadEntry m p = some t := by
  simp only [EntryReadable, exists_and_left, exists_loadEntry_iff]

/-- The entries load one after another, the first before the rest. -/
theorem loadEntries_succ_some_iff {ts : List Text} : loadEntries m (n + 1) a = some ts ↔
    ∃ p t rest, m.readWord a = some p ∧ loadEntry m p = some t ∧ loadEntries m n (a + 2) = some rest ∧
      ts = t :: rest := by
  rw [loadEntries]
  cases hp : m.readWord a with
  | none => simp
  | some p =>
    cases ht : loadEntry m p with
    | none => simp [ht]
    | some t => simp [ht, eq_comm]

theorem loadEntries_length {ts : List Text} (hl : loadEntries m n a = some ts) : ts.length = n := by
  induction n generalizing a ts with
  | zero => cases hl; rfl
  | succ n ih =>
    obtain ⟨p, t, rest, -, -, hrest, rfl⟩ := loadEntries_succ_some_iff.1 hl
    exact congrArg (· + 1) (ih hrest)

theorem exists_loadEntries_iff :
    (∃ ts, loadEntries m n a = some ts) ↔ ∀ j : Nat, j < n → EntryReadable m (a + 2 * j) := by
  induction n generalizing a with
  | zero => exact iff_of_true ⟨[], rfl⟩ nofun
  | succ n ih =>
    rw [forall_words_succ, ← ih, entryReadable_iff]
    simp only [loadEntries_succ_some_iff]
    constructor
    · rintro ⟨_, p, t, rest, hp, ht, hrest, rfl⟩
      exact ⟨⟨p, t, hp, ht⟩, rest, hrest⟩
    · rintro ⟨⟨p, t, hp, ht⟩, rest, hrest⟩
      exact ⟨_, p, t, rest, hp, ht, hrest, rfl⟩

/-- The abbreviations load exactly when each entry can be read and leads to a terminated string (R293). -/
theorem exists_loadAbbrevs_iff {table : Word} : (∃ v, loadAbbrevs m table = some v) ↔
    ∀ i : Nat, i < 96 → EntryReadable m ((table.toNat : Int) + 2 * i) := by
  rw [← exists_loadEntries_iff, loadAbbrevs]
  cases hl : loadEntries m 96 (table.toNat : Int) with
  | none => exact iff_of_false nofun nofun
  | some ts => exact iff_of_true (exists_toVector_iff.2 (loadEntries_length hl)) ⟨ts, rfl⟩

/-! ## The tables the header names -/

theorem globalsReadable_iff (hh : latchHeader m = some h) :
    GlobalsReadable m ↔ ∃ g, loadGlobals m h.globalsTab = some g := by
  obtain ⟨-, -, -, -, hgl, -⟩ := latchHeader_some_iff.1 hh
  rw [exists_loadGlobals_iff, GlobalsReadable, hgl]
  simp only [Option.some.injEq, exists_eq_left']

theorem abbrevsReadable_iff (hh : latchHeader m = some h) :
    AbbrevsReadable m ↔ ∃ v, loadAbbrevs m h.abbrevTab = some v := by
  obtain ⟨-, -, -, -, -, hab⟩ := latchHeader_some_iff.1 hh
  rw [exists_loadAbbrevs_iff, AbbrevsReadable, hab]
  simp only [Option.some.injEq, exists_eq_left', EntryReadable]

end

/-! ## Reset (R290, R296) -/

/-- The first load of R290 that fails is the table's. -/
inductive FirstFailure (m : Memory) (objs : Option (List GameObject)) (dictOk : Bool) : InitTable → Prop where
  | header : m.size < 0x1A → FirstFailure m objs dictOk .header
  | globals : 0x1A ≤ m.size → ¬ GlobalsReadable m → FirstFailure m objs dictOk .globals
  | abbreviations : 0x1A ≤ m.size → GlobalsReadable m → ¬ AbbrevsReadable m →
      FirstFailure m objs dictOk .abbreviations
  | objectTable : 0x1A ≤ m.size → GlobalsReadable m → AbbrevsReadable m → objs = none →
      FirstFailure m objs dictOk .objectTable
  | dictionary : 0x1A ≤ m.size → GlobalsReadable m → AbbrevsReadable m → objs ≠ none → dictOk = false →
      FirstFailure m objs dictOk .dictionary

section
variable {m : Memory} {objs : Option (List GameObject)} {dictOk : Bool} {t : InitTable}

/-- The header and the tables it names are loaded from an image that holds them. -/
theorem exists_loads (hs : 0x1A ≤ m.size) (hg : GlobalsReadable m) (ha : AbbrevsReadable m) :
    ∃ h g v, latchHeader m = some h ∧ loadGlobals m h.globalsTab = some g ∧
      loadAbbrevs m h.abbrevTab = some v := by
  obtain ⟨h, hh⟩ := exists_latchHeader_iff.2 hs
  obtain ⟨g, hg⟩ := (globalsReadable_iff hh).1 hg
  obtain ⟨v, ha⟩ := (abbrevsReadable_iff hh).1 ha
  exact ⟨h, g, v, hh, hg, ha⟩

/-- Reset fails with the first load that fails. -/
theorem boot_of_firstFailure (p : Params) (hf : FirstFailure m objs dictOk t) :
    boot p m objs dictOk = initFailure (unloaded p m) t := by
  cases hf with
  | header hs =>
    have hh : latchHeader m = none :=
      Option.eq_none_iff_forall_ne_some.2 (not_exists.1 (mt exists_latchHeader_iff.1 (by omega)))
    rw [boot, hh]
  | globals hs hg =>
    obtain ⟨h, hh⟩ := exists_latchHeader_iff.2 hs
    have hg : loadGlobals m h.globalsTab = none :=
      Option.eq_none_iff_forall_ne_some.2 (not_exists.1 (mt (globalsReadable_iff hh).2 hg))
    simp only [boot, hh, hg]
  | abbreviations hs hg ha =>
    obtain ⟨h, hh⟩ := exists_latchHeader_iff.2 hs
    obtain ⟨g, hg⟩ := (globalsReadable_iff hh).1 hg
    have ha : loadAbbrevs m h.abbrevTab = none :=
      Option.eq_none_iff_forall_ne_some.2 (not_exists.1 (mt (abbrevsReadable_iff hh).2 ha))
    simp only [boot, hh, hg, ha]
  | objectTable hs hg ha ho =>
    obtain ⟨h, g, v, hh, hg, ha⟩ := exists_loads hs hg ha
    simp only [boot, hh, hg, ha, ho]
  | dictionary hs hg ha ho hd =>
    obtain ⟨h, g, v, hh, hg, ha⟩ := exists_loads hs hg ha
    obtain ⟨os, rfl⟩ := Option.ne_none_iff_exists'.1 ho
    simp only [boot, hh, hg, ha, hd, Bool.false_eq_true, if_false]

/-- Reset runs when every load succeeds (R290, R297). -/
theorem boot_running (p : Params) (hs : 0x1A ≤ m.size) (hg : GlobalsReadable m) (ha : AbbrevsReadable m)
    (ho : objs ≠ none) (hd : dictOk = true) : (boot p m objs dictOk).status = .running := by
  obtain ⟨h, g, v, hh, hg, ha⟩ := exists_loads hs hg ha
  obtain ⟨os, rfl⟩ := Option.ne_none_iff_exists'.1 ho
  simp only [boot, hh, hg, ha, hd, if_true]

/-- Some load fails first, unless every load succeeds. -/
theorem exists_firstFailure_or (m : Memory) (objs : Option (List GameObject)) (dictOk : Bool) :
    (∃ t, FirstFailure m objs dictOk t) ∨
      0x1A ≤ m.size ∧ GlobalsReadable m ∧ AbbrevsReadable m ∧ objs ≠ none ∧ dictOk = true := by
  by_cases hs : 0x1A ≤ m.size
  case neg => exact .inl ⟨_, .header (Nat.lt_of_not_le hs)⟩
  by_cases hg : GlobalsReadable m
  case neg => exact .inl ⟨_, .globals hs hg⟩
  by_cases ha : AbbrevsReadable m
  case neg => exact .inl ⟨_, .abbreviations hs hg ha⟩
  by_cases ho : objs = none
  case pos => exact .inl ⟨_, .objectTable hs hg ha ho⟩
  cases hd : dictOk with
  | false => exact .inl ⟨_, .dictionary hs hg ha ho rfl⟩
  | true => exact .inr ⟨hs, hg, ha, ho, rfl⟩

/-- A reset whose first failure is a table's records that table (R268, R296). -/
theorem haltReason_of_firstFailure (p : Params) (hf : FirstFailure m objs dictOk t) :
    (boot p m objs dictOk).haltReason = .fault (.initError t) := by
  rw [boot_of_firstFailure p hf]
  rfl

/-- Reset leaves a halted block exactly when some load fails. -/
theorem boot_halted_iff (p : Params) :
    (boot p m objs dictOk).status = .halted ↔ ∃ t, FirstFailure m objs dictOk t := by
  constructor
  · intro hb
    obtain hf | ⟨hs, hg, ha, ho, hd⟩ := exists_firstFailure_or m objs dictOk
    · exact hf
    · rw [boot_running p hs hg ha ho hd] at hb
      cases hb
  · rintro ⟨t, hf⟩
    rw [boot_of_firstFailure p hf]
    rfl

end

/-- Settles O59: each clause is a case of FirstFailure, and without one the reset runs. -/
theorem failedResetIsInitError : Obligations.FailedResetIsInitError := by
  unfold Obligations.FailedResetIsInitError
  intro p m objs dictOk
  refine ⟨fun hs => ?_, fun hs hg => ?_, fun hs hg ha => ?_, fun hs hg ha ho => ?_,
    fun hs hg ha ho hd => ?_, fun hfails => ?_, fun hb => ?_⟩
  · exact haltReason_of_firstFailure p (.header hs)
  · exact haltReason_of_firstFailure p (.globals hs hg)
  · exact haltReason_of_firstFailure p (.abbreviations hs hg ha)
  · exact haltReason_of_firstFailure p (.objectTable hs hg ha ho)
  · exact haltReason_of_firstFailure p (.dictionary hs hg ha ho hd)
  · obtain hf | ⟨hs, hg, ha, ho, hd⟩ := exists_firstFailure_or m objs dictOk
    · exact (boot_halted_iff p).2 hf
    · rw [hd] at hfails
      obtain h | h | h | h | h := hfails
      exacts [absurd hs (by omega), absurd hg h, absurd ha h, absurd h ho, absurd h (by decide)]
  · obtain ⟨t, hf⟩ := (boot_halted_iff p).1 hb
    exact ⟨⟨t, haltReason_of_firstFailure p hf⟩, step_of_halted hb⟩

end Sys2Proof.Machine
end

section
/-! PROOFS. A reset that succeeds (spec/70_reset_and_hazards.md R290–R297): what the loads hold of the image,
cell by cell, and the state they leave (spec/10_state.md R33). -/

namespace Sys2Proof.Machine

section
variable {m : Memory} {n i : Nat} {a : Int} {table p : Word}

/-! ## What a load holds (R292, R293) -/

theorem toVector_getElem? {α : Type} {l : List α} {v : Vector α n} (hv : toVector n l = some v) (i : Nat) :
    v[i]? = l[i]? := by
  unfold toVector at hv
  split at hv
  · cases hv
    simp
  · cases hv

/-- The globals are the words of their table, in order (R292). -/
theorem loadGlobals_getElem? {g : Vector Word 240} (hg : loadGlobals m table = some g) (hi : i < 240) :
    m.readWord ((table.toNat : Int) + 2 * i) = g[i]? := by
  have hread := exists_loadGlobals_iff.1 ⟨g, hg⟩
  choose! d hd using hread
  rw [loadGlobals, Memory.readWords_of_readable hd] at hg
  rw [hd i hi, toVector_getElem? hg, List.getElem?_map, List.getElem?_range hi, Option.map_some]

/-- An entry's string is its terminated string, decoded with an empty table (R142, R143). -/
theorem exists_packedText_of_loadEntry {t : Text} (ht : loadEntry m p = some t) :
    ∃ cs e, PackedText m (2 * (p.toNat : Int)) cs e ∧ t = decodeCodes [] cs := by
  obtain ⟨cs, e, hp⟩ := exists_loadEntry_iff.1 ⟨t, ht⟩
  rw [loadEntry, unpack, Memory.codes_of_packedText hp] at ht
  exact ⟨cs, e, hp, (Option.some.inj ht).symm⟩

/-- The strings loaded are those of the entries, in order (R142). -/
theorem loadEntries_getElem? {ts : List Text} (hl : loadEntries m n a = some ts) (hi : i < n) :
    ∃ p t, m.readWord (a + 2 * i) = some p ∧ loadEntry m p = some t ∧ ts[i]? = some t := by
  induction n generalizing a i ts with
  | zero => exact absurd hi i.not_lt_zero
  | succ n ih =>
    obtain ⟨p, t, rest, hp, ht, hrest, rfl⟩ := loadEntries_succ_some_iff.1 hl
    cases i with
    | zero => exact ⟨p, t, by simpa using hp, ht, rfl⟩
    | succ i =>
      rw [show a + 2 * ((i + 1 : Nat) : Int) = a + 2 + 2 * i by push_cast; ring]
      exact ih hrest (Nat.lt_of_succ_lt_succ hi)

/-- The abbreviations are the strings their table's entries lead to, in order (R293). -/
theorem loadAbbrevs_getElem? {v : Vector Text 96} (hv : loadAbbrevs m table = some v) (hi : i < 96) :
    ∃ (p : Word) (cs : List Code) (e : Int), m.readWord ((table.toNat : Int) + 2 * i) = some p ∧
      PackedText m (2 * (p.toNat : Int)) cs e ∧ v[i]? = some (decodeCodes [] cs) := by
  unfold loadAbbrevs at hv
  split at hv
  · next ts hts =>
    obtain ⟨p, t, hp, ht, hget⟩ := loadEntries_getElem? hts hi
    obtain ⟨cs, e, hpt, rfl⟩ := exists_packedText_of_loadEntry ht
    exact ⟨p, cs, e, hp, hpt, (toVector_getElem? hv i).trans hget⟩
  · cases hv

/-! ## The state they leave (R290, R33) -/

/-- What a successful Reset makes of its loads (R33, R290, R295). -/
def loadedState (p : Params) (m : Memory) (os : List GameObject) (h : Header) (g : Vector Word 240)
    (v : Vector Text 96) : State :=
  { unloaded p m with
    hdr := h, globals := g, abbrevs := v, objs := os, sink := [],
    cur := initialFrame (h.initPc.toNat : Int), callers := [], status := .running, haltReason := .none }

theorem boot_of_loads (p : Params) (os : List GameObject) {h : Header} {g : Vector Word 240}
    {v : Vector Text 96} (hh : latchHeader m = some h) (hg : loadGlobals m h.globalsTab = some g)
    (hv : loadAbbrevs m h.abbrevTab = some v) : boot p m (some os) true = loadedState p m os h g v := by
  simp only [boot, hh, hg, hv, if_true]
  rfl

/-- A running reset has loaded the header and the tables it names (R290, R297). -/
theorem exists_loads_of_boot_running {p : Params} {os : List GameObject}
    (hb : (boot p m (some os) true).status = .running) :
    ∃ h g v, latchHeader m = some h ∧ loadGlobals m h.globalsTab = some g ∧
      loadAbbrevs m h.abbrevTab = some v := by
  obtain hf | ⟨hs, hg, ha, -, -⟩ := exists_firstFailure_or m (some os) true
  · rw [(boot_halted_iff p).2 hf] at hb
    cases hb
  · exact exists_loads hs hg ha

theorem initialFrame_locals_getElem? (pc : Int) (hi : i < 15) : (initialFrame pc).locals[i]? = some none :=
  Vector.getElem?_replicate.trans (if_pos hi)

end

/-- Settles O58: without a first failure the reset runs, and a running reset is the state its loads leave,
each of which holds what its table in the image reads as. -/
theorem successfulResetLoadsTheTables : Obligations.SuccessfulResetLoadsTheTables := by
  unfold Obligations.SuccessfulResetLoadsTheTables
  refine ⟨fun p m os hs hg ha => boot_running p hs hg ha nofun rfl, ?_⟩
  rintro p m os _ rfl hb
  obtain ⟨h, g, v, hh, hg, hv⟩ := exists_loads_of_boot_running hb
  obtain ⟨hver, hpc, hdict, hobj, hgl, hab⟩ := latchHeader_some_iff.1 hh
  rw [boot_of_loads p os hh hg hv]
  exact ⟨rfl, hver, hpc, hdict, hobj, hgl, hab, fun i hi => loadGlobals_getElem? hg hi,
    fun i hi => loadAbbrevs_getElem? hv hi, rfl, rfl, rfl, fun j hj => initialFrame_locals_getElem? _ hj,
    rfl, rfl, rfl, rfl⟩

end Sys2Proof.Machine
end

section
/-! PROOFS. The words of spec/95_test_vectors.md as encodings (spec/30_encoding.md R70–R77). -/

namespace Sys2Proof

/-- A word that begins with a well-formed instruction's encoding decodes to it. -/
theorem decode_of_eq_encode_append {bs : List Byte} {i : Instr} (rest : List Byte)
    (h : bs = encode i ++ rest) (hwf : WellFormed i) : decode bs = .ok i :=
  h ▸ decodeOfEncodeIsIdentity i rest hwf

/-- DEC-11: after the first Omitted field the type code 0 is ignored as 3 would be, and print_num has one
operand; the last byte is not its own. -/
theorem decode_printNum_field_after_omitted :
    decode [0xE6, 0x3C, 0x00, 0x07, 0x09] = .ok (.printNum [.large 7]) :=
  calc decode [0xE6, 0x3C, 0x00, 0x07, 0x09]
    _ = decode [0xE6, 0x3F, 0x00, 0x07, 0x09] :=
      fieldsAfterOmittedAreIgnored 0xE6 0x3C 0x3F _ (by decide) rfl
    _ = .ok (.printNum [.large 7]) := decode_of_eq_encode_append [0x09] rfl rfl

/-- Settles O3: each word is what the encoder writes for its instruction, but for DEC-11's, whose types byte
the encoder would not write. -/
theorem specWordsDecode : Obligations.SpecWordsDecode := by
  unfold Obligations.SpecWordsDecode
  refine ⟨?_, ?_, ?_, ?_, ?_, ?_, ?_, ?_, ?_, decode_printNum_field_after_omitted, ?_⟩
  all_goals exact decode_of_eq_encode_append [] rfl rfl

end Sys2Proof
end
